-- ==== Sys2Proof/Word.lean ====
section
/-! DEFINITION. The widths of the spec (R13, R14 of 00_scope.md): bytes, 32-bit words, 14-bit bus offsets, and the
group of four like things that the whole spec is built from (four bytes of a word, four words of a block). -/

namespace Sys2Proof

/-- A byte, 0x00..0xFF (R13). -/
abbrev Byte := BitVec 8

/-- A 32-bit host word (R13, R20). -/
abbrev Word := BitVec 32

/-- A byte offset of the 16 KiB host window, the bus_addr port (R60, R61). -/
abbrev Offset := BitVec 14

/-- Four like things in order, the first one `q0`: the bytes (w0, w1, w2, w3) of a word (R14), the words of a
128-bit register (R39 to R43), the rows of the state matrix (R15). -/
structure Quad (α : Type) where
  q0 : α
  q1 : α
  q2 : α
  q3 : α
  deriving DecidableEq, Repr

/-- A 4-byte word of the algorithms, a sequence (w0, w1, w2, w3) (R14). -/
abbrev Col := Quad Byte

/-- A 16-byte block b[0..15] (R10, R14): byte i is byte i mod 4 of group i div 4, as R63 packs it. -/
abbrev Block := Quad Col

end Sys2Proof
end

