-- ==== Sys2Proof/Config.lean ====
section
/-! DEFINITION. What an implementation fixes, and the one free value of the spec.
`ENGINE_BASE` and `BUS_PROTOCOL` are left to the platform: the model works in offsets and atomic transfers (log 10).
`CMD_LATENCY` is no number of the model: a completion is a step of its own (log 1, log 10). -/

namespace Sys2Proof

/-- `BUF_BYTES` when the implementation gives no other value (R11, D15). The model takes `BUF_BYTES` as the state's
field `bufBytes`, so a statement for every state holds for every size. -/
def Config.defaultBufBytes : Nat := 4096

/-- The sizes R11 allows: a multiple of 16 with 32 ≤ BUF_BYTES ≤ 4096. -/
abbrev Config.bufBytesOk (n : Nat) : Prop := n % 16 = 0 ∧ 32 ≤ n ∧ n ≤ 4096

/-- FREE VALUE (log 4): the word that a host read of a result register returns while a command is in flight
(R201 `ANY`, R246, U2), and the last read of a name that was never read (R99, log 12). It is applied to the state's
counter `draws`, which every draw advances, so two reads may differ. It has no body: nothing can be proved of it. -/
opaque Config.freeRead : Nat → Word

end Sys2Proof
end

