-- ==== Sys2Proof/Syntax.lean ====
section
/-! DEFINITION. The commands of the engine: one constructor per row of spec/opcode_table.json (R98 of 30_encoding.md).
Every operand but ROUND is implicit (R92). An illegal word (R93) is no instruction: the decoder refuses it by name, and
its completion with ILLEGAL_COMMAND is `Machine.execIllegal` (log 17). -/

namespace Sys2Proof

/-- The 22 commands of the opcode map (R98), in the table's order. -/
inductive Instr where
  /-- NOP, 0x00 (R204). -/
  | nop
  /-- GF_XTIME, 0x01 (R123). -/
  | gfXtime
  /-- GF_MUL, 0x02 (R124). -/
  | gfMul
  /-- SBOX, 0x03 (R132). -/
  | sbox
  /-- INV_SBOX, 0x04 (R133). -/
  | invSbox
  /-- SUB_WORD, 0x05 (R135). -/
  | subWord
  /-- ROT_WORD, 0x06 (R137). -/
  | rotWord
  /-- SUB_BYTES, 0x10 (R142). -/
  | subBytes
  /-- INV_SUB_BYTES, 0x11 (R144). -/
  | invSubBytes
  /-- SHIFT_ROWS, 0x12 (R146). -/
  | shiftRows
  /-- INV_SHIFT_ROWS, 0x13 (R148). -/
  | invShiftRows
  /-- MIX_COLUMNS, 0x14 (R150). -/
  | mixColumns
  /-- INV_MIX_COLUMNS, 0x15 (R152). -/
  | invMixColumns
  /-- ADD_ROUND_KEY, 0x16, with ROUND = bits [11:8], an unsigned number 0..15 (R92, R154). -/
  | addRoundKey (round : Nat)
  /-- KEY_EXPAND, 0x20 (R162). -/
  | keyExpand
  /-- ENCRYPT_BLOCK, 0x21 (R173). -/
  | encryptBlock
  /-- DECRYPT_BLOCK, 0x22 (R174). -/
  | decryptBlock
  /-- CBC_ENCRYPT, 0x30 (R183). -/
  | cbcEncrypt
  /-- CBC_DECRYPT, 0x31 (R184). -/
  | cbcDecrypt
  /-- CTR_ENCRYPT, 0x32 (R193). -/
  | ctrEncrypt
  /-- CTR_DECRYPT, 0x33 (R194). -/
  | ctrDecrypt
  /-- CTR_INCREMENT, 0x34 (R192). -/
  | ctrIncrement
  deriving DecidableEq, Repr

end Sys2Proof
end

