-- ==== Sys2Proof/Machine/Types.lean ====
section
/-! DEFINITION. The data the state is made of: key sizes, result codes, register names, bus transfers and their
responses, the lines of a host program, and the turns of the outside world. -/

namespace Sys2Proof.Machine

/-- The variant set of R3 and R10: the key of 16, 24 or 32 bytes. -/
inductive KeySize where
  | aes128
  | aes192
  | aes256
  deriving DecidableEq, Repr

/-- The result codes of STATUS.ERR (R211). The reserved codes 9 to 15 are never written, so they have no constructor. -/
inductive ResultCode where
  /-- 0: the command completed without error. -/
  | ok
  /-- 1: KEYLEN is not 16, 24 or 32 (R212). -/
  | invalidKey
  /-- 2: kept for the source's error; no command raises it (R213). -/
  | invalidBlockLength
  /-- 3: CBC_DECRYPT or CTR_DECRYPT with an input of bad length (R214). -/
  | invalidCiphertextLength
  /-- 4: CBC_DECRYPT found a last byte outside 1..16 (R215). -/
  | paddingError
  /-- 5: a keyed command with no schedule expanded since reset (R216). -/
  | noKey
  /-- 6: input or output does not fit its buffer (R217). -/
  | lengthOverflow
  /-- 7: ADD_ROUND_KEY with ROUND > NR (R218). -/
  | badRound
  /-- 8: the command word is not legal (R219). -/
  | illegalCommand
  deriving DecidableEq, Repr

/-- The names of the register map (R20) and of the words of the buffers (`IN+a`, `OUT+a`; R99). -/
inductive RegName where
  | id
  | version
  | caps
  | ctrl
  | status
  | cmd
  | opa
  | opb
  | res
  | keylen
  | rkinfo
  | inLen
  | outLen
  | key (i : Fin 8)
  | iv (i : Fin 4)
  | state (i : Fin 4)
  | blkIn (i : Fin 4)
  | blkOut (i : Fin 4)
  | rk (i : Fin 60)
  /-- `IN+a`: the word at offset INBASE + a, a multiple of 4. -/
  | inWord (a : Nat)
  /-- `OUT+a`: the word at offset OUTBASE + a, a multiple of 4. -/
  | outWord (a : Nat)
  deriving DecidableEq, Repr

/-- One bus transfer (R60, R62): a write with its four byte-lane strobes, or a read. -/
inductive Transfer where
  | write (off : Offset) (data : Word) (strb : BitVec 4)
  | read (off : Offset)
  deriving DecidableEq, Repr

/-- The engine's response to a transfer (R60): OKAY to a write, OKAY with bus_rdata to a read, or ERROR. -/
inductive Response where
  | okayWrite
  | okayRead (rdata : Word)
  | error
  deriving DecidableEq, Repr

/-- The lines of a host program (R99), their labels resolved to line numbers (log 12). -/
inductive HostLine where
  /-- `wr NAME, imm32`: write imm32 to NAME. -/
  | wr (name : RegName) (imm : Word)
  /-- `rd NAME`: read NAME. -/
  | rd (name : RegName)
  /-- `cmd MNEMONIC[, r]`: write the command's word to CMD. -/
  | cmd (i : Instr)
  /-- `poll NAME, mask, value`: read NAME until (read & mask) = value. -/
  | poll (name : RegName) (mask value : Word)
  /-- `bnz NAME, mask, label`: continue at the label if (last read of NAME & mask) is not 0. -/
  | bnz (name : RegName) (mask : Word) (target : Nat)
  /-- `jmp label`. -/
  | jmp (target : Nat)
  /-- `copy DST, SRC`: read SRC, then write the value that read returned to DST. -/
  | copy (dst src : RegName)
  /-- `halt`: end of the host program. -/
  | halt
  deriving DecidableEq, Repr

/-- One event of the total order of R74, as the outside world offers it (log 1). -/
inductive Turn where
  /-- The engine's one step: it completes the command in flight, and does nothing when there is none (R203, R233). -/
  | engine
  /-- A transfer of some bus master (R74, R81). -/
  | bus (t : Transfer)
  /-- The host program performs its next line, or its next transfer of that line (R99). -/
  | program
  /-- A clock edge with rst_n = 0 (R240). -/
  | reset
  deriving DecidableEq, Repr

end Sys2Proof.Machine
end

