-- ==== Sys2Proof/Machine/State.lean ====
section
/-! DEFINITION. The state of the machine: everything 10_state.md gives the engine, the buffers, the response ports, the
host program's position, and the outside world's turns; and the reasons a step can stop. -/

namespace Sys2Proof.Machine

/-- Why the machine stops with a fault. -/
inductive Fault where
  /-- SAFE. A byte of IN or OUT that nothing has written since reset is read at this bus offset, by a host read or by a
  mode command: the spec has a model fault there (R241, U1). Raised by `memRead`. -/
  | unwrittenByte (off : Nat)
  deriving DecidableEq, Repr

/-- Why a step gives an instruction no meaning. -/
inductive Refusal where
  /-- SAFE. An instruction whose meaning is not written yet, raised by `exec` alone. No arm of `exec` uses it. -/
  | notModelled (mnemonic : String)
  deriving DecidableEq, Repr

/-- The machine (R20, R47, R60, R99). `STATUS.BUSY` is `latched.isSome`, `RKINFO.VALID` is `rkInfo.isSome`. -/
structure State where
  /-- BUF_BYTES, the size of each buffer, which CAPS reads; no step changes it (R11, R25, log 2). -/
  bufBytes : Nat
  /-- CTRL.IE (R26). -/
  ie : Bool
  /-- STATUS.DONE (R28). -/
  done : Bool
  /-- STATUS.OVR (R29). -/
  ovr : Bool
  /-- STATUS.ERR (R30). -/
  err : ResultCode
  /-- The command in flight and its latched word; BUSY says whether there is one (R27, R47, R202, log 8). -/
  latched : Option Word
  /-- OPA (R32). -/
  opa : Word
  /-- OPB (R33). -/
  opb : Word
  /-- RES (R34). -/
  res : Word
  /-- KEYLEN (R35). -/
  keylen : Word
  /-- RKINFO: the key size of the current schedule, `none` for VALID = 0 (R36, log 8). -/
  rkInfo : Option KeySize
  /-- IN_LEN (R37). -/
  inLen : Word
  /-- OUT_LEN (R38). -/
  outLen : Word
  /-- KEY0..KEY7 (R39). -/
  key : Vector Word 8
  /-- IV0..IV3 (R40). -/
  iv : Quad Word
  /-- STATE0..STATE3 (R41). -/
  stateReg : Quad Word
  /-- BLK_IN0..BLK_IN3 (R42). -/
  blkIn : Quad Word
  /-- BLK_OUT0..BLK_OUT3 (R43). -/
  blkOut : Quad Word
  /-- RK0..RK59, the round-key memory (R44). -/
  rk : Vector Word 60
  /-- The bytes of IN and OUT that have been written since reset, by bus offset, strictly rising (R45, R46, R241,
  logs 3 and 18). -/
  mem : List Host.Cell
  /-- The response ports: what the last transfer answered (R60, R69). -/
  resp : Option Response
  /-- The host program (R99). -/
  program : List HostLine
  /-- The line the host program stands at (R21). -/
  pos : Nat
  /-- The last value the host program read of each name, by bus offset, strictly rising (R99 `bnz`). -/
  lastReads : List (Nat × Word)
  /-- The value a `copy` line has read and not yet written (R99). -/
  held : Option Word
  /-- Some transfer so far got an ERROR response: the model's record of the host program's fault (U12, U13, log 5). -/
  hostFault : Bool
  /-- The turns of the outside world still to come (log 1). -/
  turns : List Turn
  /-- How many free values have been drawn (log 4). -/
  draws : Nat
  deriving DecidableEq, Repr

/-- What a step answers. -/
abbrev Result := Host.Outcome State Fault Refusal

/-- The reset state of R241 for buffers of the given size, with no program and no turns offered. -/
def State.resetWith (bufBytes : Nat) : State where
  bufBytes := bufBytes
  ie := false
  done := false
  ovr := false
  err := .ok
  latched := none
  opa := 0
  opb := 0
  res := 0
  keylen := 0
  rkInfo := none
  inLen := 0
  outLen := 0
  key := Vector.replicate 8 0
  iv := ⟨0, 0, 0, 0⟩
  stateReg := ⟨0, 0, 0, 0⟩
  blkIn := ⟨0, 0, 0, 0⟩
  blkOut := ⟨0, 0, 0, 0⟩
  rk := Vector.replicate 60 0
  mem := []
  resp := none
  program := []
  pos := 0
  lastReads := []
  held := none
  hostFault := false
  turns := []
  draws := 0

/-- The machine right after reset (R241), with the BUF_BYTES of an implementation that gives no other value (R11). -/
def State.reset : State := State.resetWith Config.defaultBufBytes

end Sys2Proof.Machine
end

