-- ==== Sys2Proof/Machine/Operands.lean ====
section
/-! DEFINITION. Every operand form of the spec: groups of four, the byte packing of R63, blocks and byte sequences, the
state matrix, and how a command reads OPA, OPB, KEY and the block registers. -/

namespace Sys2Proof.Machine

/-- Thing number i of a group. -/
def Quad.get {α : Type} (q : Quad α) (i : Fin 4) : α :=
  match i with
  | 0 => q.q0
  | 1 => q.q1
  | 2 => q.q2
  | 3 => q.q3

/-- The group whose thing number i is `f i`. -/
def Quad.ofFn {α : Type} (f : Fin 4 → α) : Quad α := ⟨f 0, f 1, f 2, f 3⟩

/-- The group with thing number i replaced. -/
def Quad.set {α : Type} (q : Quad α) (i : Fin 4) (a : α) : Quad α :=
  Quad.ofFn fun j => if j = i then a else Quad.get q j

/-- Thing by thing. -/
def Quad.map {α β : Type} (f : α → β) (q : Quad α) : Quad β := ⟨f q.q0, f q.q1, f q.q2, f q.q3⟩

/-- Thing by thing of two groups. -/
def Quad.zip {α β γ : Type} (f : α → β → γ) (p : Quad α) (q : Quad β) : Quad γ :=
  ⟨f p.q0 q.q0, f p.q1 q.q1, f p.q2 q.q2, f p.q3 q.q3⟩

/-- The things in order. -/
def Quad.toList {α : Type} (q : Quad α) : List α := [q.q0, q.q1, q.q2, q.q3]

/-- `word(w0, w1, w2, w3)`: w0 in bits [31:24], w3 in bits [7:0] (R14, R63). -/
def packWord (c : Col) : Word := c.q0 ++ c.q1 ++ c.q2 ++ c.q3

/-- `bytes(v)`: the four bytes of a 32-bit word, most significant first (R14, R63). -/
def unpackWord (v : Word) : Col :=
  ⟨v.extractLsb' 24 8, v.extractLsb' 16 8, v.extractLsb' 8 8, v.extractLsb' 0 8⟩

/-- ⊕ of two 4-byte words (R14). -/
def xorCol (a b : Col) : Col := Quad.zip (· ^^^ ·) a b

/-- ⊕ of two 16-byte blocks (R14). -/
def xorBlock (a b : Block) : Block := Quad.zip xorCol a b

/-- The block a four-word register holds (R63). -/
def blockOfReg (r : Quad Word) : Block := Quad.map unpackWord r

/-- The four-word register that holds a block (R63). -/
def regOfBlock (b : Block) : Quad Word := Quad.map packWord b

/-- The bytes b[0..15] of a block, in order (R14). -/
def blockBytes (b : Block) : List Byte :=
  Quad.toList b.q0 ++ Quad.toList b.q1 ++ Quad.toList b.q2 ++ Quad.toList b.q3

/-- The word at the head of a byte sequence (R14). -/
def colOfBytes (l : List Byte) : Col := ⟨l.getD 0 0, l.getD 1 0, l.getD 2 0, l.getD 3 0⟩

/-- The block at the head of a byte sequence of at least 16 bytes (R14). -/
def blockOfBytes (l : List Byte) : Block :=
  ⟨colOfBytes l, colOfBytes (l.drop 4), colOfBytes (l.drop 8), colOfBytes (l.drop 12)⟩

/-- The first n blocks of a byte sequence: `l[0 .. 16)`, `l[16 .. 32)`, ... (R181, R191). -/
def takeBlocks : Nat → List Byte → List Block
  | 0, _ => []
  | n + 1, l => blockOfBytes l :: takeBlocks n (l.drop 16)

/-- All full blocks of a byte sequence, len div 16 of them. -/
def fullBlocks (l : List Byte) : List Block := takeBlocks (l.length / 16) l

/-- The len mod 16 bytes after the last full block (R191). -/
def tailBytes (l : List Byte) : List Byte := l.drop (16 * (l.length / 16))

/-- The concatenation of blocks as bytes (R14). -/
def blocksBytes : List Block → List Byte
  | [] => []
  | b :: bs => blockBytes b ++ blocksBytes bs

/-- The state matrix, s[r][c] at row r and column c (R15). -/
structure Matrix where
  rows : Quad (Quad Byte)
  deriving DecidableEq, Repr

/-- s[r][c] (R15). -/
def Matrix.get (s : Matrix) (r c : Fin 4) : Byte := Quad.get (Quad.get s.rows r) c

/-- The matrix with s[r][c] = f r c. -/
def Matrix.ofFn (f : Fin 4 → Fin 4 → Byte) : Matrix := ⟨Quad.ofFn fun r => Quad.ofFn fun c => f r c⟩

/-- `toState(b)`: s[r][c] = b[r + 4c], and b[r + 4c] is byte r of group c (R140). -/
def toState (b : Block) : Matrix := Matrix.ofFn fun r c => Quad.get (Quad.get b c) r

/-- `fromState(s)`: b[r + 4c] = s[r][c] (R140). -/
def fromState (s : Matrix) : Block := Quad.ofFn fun c => Quad.ofFn fun r => Matrix.get s r c

/-- Nk, the words of the key (R10). -/
def KeySize.nk : KeySize → Nat
  | .aes128 => 4
  | .aes192 => 6
  | .aes256 => 8

/-- Nr, the number of rounds (R10). -/
def KeySize.nr : KeySize → Nat
  | .aes128 => 10
  | .aes192 => 12
  | .aes256 => 14

/-- The key size of a key of KEYLEN bytes, the full 32-bit value compared; none for any other length (R35, R162). -/
def keySizeOf (keylen : Word) : Option KeySize :=
  if keylen.toNat = 16 then some .aes128
  else if keylen.toNat = 24 then some .aes192
  else if keylen.toNat = 32 then some .aes256
  else none

/-- OPA[7:0], what the byte commands read (R32). -/
def opaByte (s : State) : Byte := s.opa.extractLsb' 0 8

/-- OPB[7:0], the second input of GF_MUL (R33). -/
def opbByte (s : State) : Byte := s.opb.extractLsb' 0 8

/-- OPA as the word (w0, w1, w2, w3) (R32). -/
def opaCol (s : State) : Col := unpackWord s.opa

/-- The first n words of KEY as 4-byte words: the key bytes key[0..4n-1] (R39, R161). -/
def keyCols (s : State) (n : Nat) : List Col := (s.key.toList.take n).map unpackWord

/-- Word i of the round-key memory as a 4-byte word, `RK[i]` (R17, R44). -/
def rkCol (w : Vector Word 60) (i : Nat) : Col := unpackWord (w[i]?.getD 0)

end Sys2Proof.Machine
end

