-- ==== Sys2Proof/Machine/Flags.lean ====
section
/-! DEFINITION. Every flag of the spec: STATUS, CTRL, RKINFO and CAPS as words, the interrupt line, the write-one-to-clear
rule, and what issue and completion do to the flags. The engine has no condition codes (R49). -/

namespace Sys2Proof.Machine

/-- The number of a result code in STATUS.ERR (R211). -/
def ResultCode.bits : ResultCode → BitVec 4
  | .ok => 0
  | .invalidKey => 1
  | .invalidBlockLength => 2
  | .invalidCiphertextLength => 3
  | .paddingError => 4
  | .noKey => 5
  | .lengthOverflow => 6
  | .badRound => 7
  | .illegalCommand => 8

/-- STATUS.BUSY: a command is in flight (R27). -/
def State.busy (s : State) : Bool := s.latched.isSome

/-- STATUS as the host reads it: bits [31:12] 0, [11:8] ERR, [7:3] 0, 2 OVR, 1 DONE, 0 BUSY (R27 to R30). -/
def statusWord (s : State) : Word :=
  (0#20 ++ ResultCode.bits s.err ++ 0#5 ++ BitVec.ofBool s.ovr ++ BitVec.ofBool s.done ++ BitVec.ofBool (State.busy s) :
    BitVec 32)

/-- CTRL as the host reads it: bit 0 IE, the rest 0 (R26). -/
def ctrlWord (s : State) : Word := (0#31 ++ BitVec.ofBool s.ie : BitVec 32)

/-- RKINFO.VALID (R36). -/
def rkValid (s : State) : Bool := s.rkInfo.isSome

/-- RKINFO.NK, 0 while VALID = 0 (R36). -/
def rkNk (s : State) : Nat := (s.rkInfo.map KeySize.nk).getD 0

/-- RKINFO.NR, 0 while VALID = 0 (R36). -/
def rkNr (s : State) : Nat := (s.rkInfo.map KeySize.nr).getD 0

/-- RKINFO as the host reads it: bits [19:16] NR, [11:8] NK, 0 VALID, the rest 0 (R36). -/
def rkInfoWord (s : State) : Word :=
  (0#12 ++ BitVec.ofNat 4 (rkNr s) ++ 0#4 ++ BitVec.ofNat 4 (rkNk s) ++ 0#7 ++ BitVec.ofBool (rkValid s) : BitVec 32)

/-- CAPS as the host reads it: bits [15:0] BUF_BYTES, [31:16] 0 (R25). -/
def capsWord (s : State) : Word := (0#16 ++ BitVec.ofNat 16 s.bufBytes : BitVec 32)

/-- ID, the bytes "LBCA" (R23). -/
def idWord : Word := 0x4C424341

/-- VERSION (R24). -/
def versionWord : Word := 0x00000001

/-- The interrupt output: DONE and IE, combinational (R223). -/
def irq (s : State) : Bool := s.done && s.ie

/-- A host write of v to STATUS: bit 1 clears DONE, bit 2 clears OVR, every other bit is ignored (R206). -/
def writeStatus (v : Word) (s : State) : State :=
  { s with done := if v.getLsbD 1 then false else s.done, ovr := if v.getLsbD 2 then false else s.ovr }

/-- A host write of v to CTRL: IE takes bit 0, the reserved bits are ignored (R26, R200). -/
def writeCtrl (v : Word) (s : State) : State := { s with ie := v.getLsbD 0 }

/-- A host write discarded while busy sets OVR (R205, R222). -/
def setOverrun (s : State) : State := { s with ovr := true }

/-- Issue(v): the word is latched, BUSY <- 1, DONE <- 0; ERR and OVR stay (R202). -/
def issue (v : Word) (s : State) : State := { s with latched := some v, done := false }

/-- The flags of a completion with the given code: ERR <- code, BUSY <- 0, DONE <- 1 (R203, R210). -/
def finish (code : ResultCode) (s : State) : State := { s with err := code, latched := none, done := true }

end Sys2Proof.Machine
end

