-- ==== Sys2Proof/Machine/Ops.lean ====
section
/-! DEFINITION. The named operations over memory and registers, the error completion (this hardware's way of taking an
exception, R210) beside the normal one, and reset. There is no return from an exception: nothing was saved (R225). -/

namespace Sys2Proof.Machine

/-- Where IN begins (R17, R61). -/
abbrev inBase : Nat := 0x1000

/-- Where OUT begins (R17, R61). -/
abbrev outBase : Nat := 0x2000

/-- What a list of entries holds at key a; `none` for a key not listed (for memory: not written since reset, R241). -/
def entryGet {α : Type} (a : Nat) : List (Nat × α) → Option α
  | [] => none
  | (k, x) :: m => if k = a then some x else entryGet a m

/-- The list with v at key a, in rising order. -/
def entryPut {α : Type} (a : Nat) (v : α) : List (Nat × α) → List (Nat × α)
  | [] => [(a, v)]
  | (k, x) :: m =>
    if a < k then (a, v) :: (k, x) :: m
    else if a = k then (a, v) :: m
    else (k, x) :: entryPut a v m

/-- The canonical form: keys strictly rising. -/
def entriesWf {α : Type} : List (Nat × α) → Bool
  | [] => true
  | [_] => true
  | a :: b :: m => decide (a.1 < b.1) && entriesWf (b :: m)

/-- The canonical form of memory: addresses strictly rising. An unlisted address holds no value, so no listed entry can
equal what an unlisted one reads as. -/
def Memory.wf (m : List Host.Cell) : Bool := entriesWf m

/-- Every listed byte belongs to IN or to OUT of the given size (R45, R46, R61). -/
def Memory.inBuffers (bufBytes : Nat) (m : List Host.Cell) : Bool :=
  m.all fun c =>
    decide (inBase ≤ c.1 ∧ c.1 < inBase + bufBytes) || decide (outBase ≤ c.1 ∧ c.1 < outBase + bufBytes)

/-- The n bytes at bus offsets a .. a+n-1, or a fault at the first that nothing has written since reset (`MemRead` of
R17 and R73; R241, U1). -/
def memRead : Nat → Nat → List Host.Cell → Except Fault (List Byte)
  | _, 0, _ => .ok []
  | a, n + 1, m =>
    match entryGet a m with
    | none => .error (.unwrittenByte a)
    | some b =>
      match memRead (a + 1) n m with
      | .error f => .error f
      | .ok bs => .ok (b :: bs)

/-- The bytes written at bus offsets a, a+1, ... (`MemWrite` of R17 and R73). -/
def memWrite : Nat → List Byte → List Host.Cell → List Host.Cell
  | _, [], m => m
  | a, b :: bs, m => memWrite (a + 1) bs (entryPut a b m)

/-- The word at bus offset a of a buffer (R63), or a fault if a byte of it is unwritten (U1). -/
def memReadWord (a : Nat) (m : List Host.Cell) : Except Fault Word :=
  match memRead a 4 m with
  | .error f => .error f
  | .ok bs => .ok (packWord (colOfBytes bs))

/-- The buffer with the word v at bus offset a (R63). -/
def memWriteWord (a : Nat) (v : Word) (m : List Host.Cell) : List Host.Cell :=
  memWrite a (Quad.toList (unpackWord v)) m

/-- RES <- v. -/
def setRes (v : Word) (s : State) : State := { s with res := v }

/-- RES <- zext_32(byte) (R34). -/
def setResByte (b : Byte) (s : State) : State := setRes (b.setWidth 32) s

/-- STATE <- block (R41). -/
def setStateBlock (b : Block) (s : State) : State := { s with stateReg := regOfBlock b }

/-- BLK_OUT <- block (R43). -/
def setBlkOut (b : Block) (s : State) : State := { s with blkOut := regOfBlock b }

/-- RK0..RK59 and RKINFO <- a new schedule (R162). -/
def setSchedule (w : Vector Word 60) (ks : KeySize) (s : State) : State := { s with rk := w, rkInfo := some ks }

/-- `MemWrite(OUTBASE, len(out), out)` and OUT_LEN <- len (R46, R38). -/
def writeOut (out : List Byte) (len : Nat) (s : State) : State :=
  { s with mem := memWrite outBase out s.mem, outLen := BitVec.ofNat 32 len }

/-- `complete()`: the command ends with ERR = OK (R17, R203). -/
def complete (s : State) : Result := .next (finish .ok s)

/-- `raise E()`: the error completion. The state is the one at issue but for ERR, BUSY and DONE (R210). -/
def raise (code : ResultCode) (s : State) : Result := .next (finish code s)

/-- `if x[RKINFO].VALID = 0: raise NO_KEY()`, then the rest of the command with the schedule's key size (R216). -/
def withSchedule (s : State) (rest : KeySize → Result) : Result :=
  match s.rkInfo with
  | none => raise .noKey s
  | some ks => rest ks

/-- `MemRead(INBASE, n)`, then the rest of the command; a fault if one of the bytes is unwritten (R73, U1). -/
def withInput (n : Nat) (s : State) (rest : List Byte → Result) : Result :=
  match memRead inBase n s.mem with
  | .error f => .fault f
  | .ok bs => rest bs

/-- A free value is drawn: the counter moves on (R201 `ANY`, log 4). -/
def drawn (s : State) : State := { s with draws := s.draws + 1 }

/-- The response ports take a transfer's response; an ERROR is recorded as the host program's fault (R69, U12, U13). -/
def respond (r : Response) (s : State) : State :=
  { s with resp := some r, hostFault := s.hostFault || decide (r = .error) }

/-- A clock edge with rst_n = 0: every register of the engine takes its reset value, the buffers are unwritten, a
command in flight is aborted (R240 to R242). The implementation's BUF_BYTES, and what belongs to the outside world (the
host program and its position, the turns, the record of its faults, the drawn values), stay (log 13). -/
def engineReset (s : State) : State :=
  { State.resetWith s.bufBytes with
    program := s.program, pos := s.pos, lastReads := s.lastReads, held := s.held, hostFault := s.hostFault,
    turns := s.turns, draws := s.draws }

end Sys2Proof.Machine
end

