-- ==== Sys2Proof/Machine/GaloisField.lean ====
section
/-! DEFINITION. GaloisField (40_galois_field.md): multiplication by two and general multiplication in GF(2^8), and the
commands GF_XTIME and GF_MUL. -/

namespace Sys2Proof.Machine

/-- xtime(a): shift left within 8 bits, and exclusive-or with 0x1B if bit 7 was 1 (R121). -/
def xtime (a : Byte) : Byte := if a.getLsbD 7 then (a <<< 1) ^^^ 0x1B else a <<< 1

/-- The loop of R122 over bit positions of b: `p` accumulates, `a` is the running doubled value. -/
def gfMulLoop (b : Byte) : List Nat → Byte → Byte → Byte
  | [], p, _ => p
  | i :: is, p, a => gfMulLoop b is (if b.getLsbD i then p ^^^ a else p) (xtime a)

/-- mul(a, b), written a • b: the 8 bit positions of b from bit 0 upward (R122). -/
def gfMul (a b : Byte) : Byte := gfMulLoop b [0, 1, 2, 3, 4, 5, 6, 7] 0 a

/-- GF_XTIME (R123). -/
def execGfXtime (s : State) : Result := complete (setResByte (xtime (opaByte s)) s)

/-- GF_MUL (R124). -/
def execGfMul (s : State) : Result := complete (setResByte (gfMul (opaByte s) (opbByte s)) s)

end Sys2Proof.Machine
end

