-- ==== Sys2Proof/Machine/BlockState.lean ====
section
/-! DEFINITION. BlockState (42_block_state.md): the transforms of the state matrix and the seven commands that apply them
to STATE in place. -/

namespace Sys2Proof.Machine

/-- SubBytes (R141). -/
def subBytes (s : Matrix) : Matrix := Matrix.ofFn fun r c => sbox (Matrix.get s r c)

/-- InvSubBytes (R143). -/
def invSubBytes (s : Matrix) : Matrix := Matrix.ofFn fun r c => invSbox (Matrix.get s r c)

/-- ShiftRows: s'[r][c] = s[r][(c + r) mod 4] (R145); the sum of two numbers below 4 is taken mod 4. -/
def shiftRows (s : Matrix) : Matrix := Matrix.ofFn fun r c => Matrix.get s r (c + r)

/-- InvShiftRows: s'[r][c] = s[r][(c - r) mod 4] (R147). -/
def invShiftRows (s : Matrix) : Matrix := Matrix.ofFn fun r c => Matrix.get s r (c - r)

/-- One column (a0, a1, a2, a3) under MixColumns: the circulant with top row (2, 3, 1, 1) (R149, C6). -/
def mixColumn (a : Col) : Col :=
  ⟨gfMul 2 a.q0 ^^^ gfMul 3 a.q1 ^^^ a.q2 ^^^ a.q3,
   a.q0 ^^^ gfMul 2 a.q1 ^^^ gfMul 3 a.q2 ^^^ a.q3,
   a.q0 ^^^ a.q1 ^^^ gfMul 2 a.q2 ^^^ gfMul 3 a.q3,
   gfMul 3 a.q0 ^^^ a.q1 ^^^ a.q2 ^^^ gfMul 2 a.q3⟩

/-- One column under InvMixColumns: the circulant with top row (14, 11, 13, 9) (R151). -/
def invMixColumn (a : Col) : Col :=
  ⟨gfMul 0x0E a.q0 ^^^ gfMul 0x0B a.q1 ^^^ gfMul 0x0D a.q2 ^^^ gfMul 0x09 a.q3,
   gfMul 0x09 a.q0 ^^^ gfMul 0x0E a.q1 ^^^ gfMul 0x0B a.q2 ^^^ gfMul 0x0D a.q3,
   gfMul 0x0D a.q0 ^^^ gfMul 0x09 a.q1 ^^^ gfMul 0x0E a.q2 ^^^ gfMul 0x0B a.q3,
   gfMul 0x0B a.q0 ^^^ gfMul 0x0D a.q1 ^^^ gfMul 0x09 a.q2 ^^^ gfMul 0x0E a.q3⟩

/-- Column c of a matrix, top to bottom: (s[0][c], s[1][c], s[2][c], s[3][c]). -/
def Matrix.col (s : Matrix) (c : Fin 4) : Col := Quad.ofFn fun r => Matrix.get s r c

/-- The matrix of four columns. -/
def Matrix.ofCols (cols : Quad Col) : Matrix := Matrix.ofFn fun r c => Quad.get (Quad.get cols c) r

/-- MixColumns: every column by `mixColumn`, all outputs from the old column (R149). -/
def mixColumns (s : Matrix) : Matrix := Matrix.ofCols (Quad.ofFn fun c => mixColumn (Matrix.col s c))

/-- InvMixColumns (R151). -/
def invMixColumns (s : Matrix) : Matrix := Matrix.ofCols (Quad.ofFn fun c => invMixColumn (Matrix.col s c))

/-- AddRoundKey(s, w, r): s[j][c] ⊕ byte j of w[4r + c] (R153). -/
def addRoundKey (s : Matrix) (w : Vector Word 60) (r : Nat) : Matrix :=
  Matrix.ofFn fun j c => Matrix.get s j c ^^^ Quad.get (rkCol w (4 * r + c.val)) j

/-- `x[STATE] <- fromState(f(toState(x[STATE])))` (R142 to R154). -/
def mapState (f : Matrix → Matrix) (s : State) : State :=
  setStateBlock (fromState (f (toState (blockOfReg s.stateReg)))) s

/-- SUB_BYTES (R142). -/
def execSubBytes (s : State) : Result := complete (mapState subBytes s)

/-- INV_SUB_BYTES (R144). -/
def execInvSubBytes (s : State) : Result := complete (mapState invSubBytes s)

/-- SHIFT_ROWS (R146). -/
def execShiftRows (s : State) : Result := complete (mapState shiftRows s)

/-- INV_SHIFT_ROWS (R148). -/
def execInvShiftRows (s : State) : Result := complete (mapState invShiftRows s)

/-- MIX_COLUMNS (R150). -/
def execMixColumns (s : State) : Result := complete (mapState mixColumns s)

/-- INV_MIX_COLUMNS (R152). -/
def execInvMixColumns (s : State) : Result := complete (mapState invMixColumns s)

/-- ADD_ROUND_KEY (R154): NO_KEY, then BAD_ROUND when ROUND > NR (R216, R218, R220), else STATE ⊕ round key. -/
def execAddRoundKey (round : Nat) (s : State) : Result :=
  withSchedule s fun ks =>
    if round > KeySize.nr ks then raise .badRound s
    else complete (mapState (fun m => addRoundKey m s.rk round) s)

end Sys2Proof.Machine
end

