-- ==== Sys2Proof/Machine/KeySchedule.lean ====
section
/-! DEFINITION. KeySchedule (43_key_schedule.md): the round constants, the expansion, and the command KEY_EXPAND. -/

namespace Sys2Proof.Machine

/-- `rconFrom1 k` is Rcon[k + 1]: 0x01, then doublings (R160). Rcon[0] is unused and has no value, so the table begins at
index 1 (U4, log 16). -/
def rconFrom1 : Nat → Byte
  | 0 => 0x01
  | k + 1 => xtime (rconFrom1 k)

/-- The word w[i] with i = Nk + j, from the words before it, newest first: w[i-1] is number 0 and w[i-Nk] number Nk - 1
(R161). Since i = Nk + j, i mod Nk = j mod Nk and i / Nk = j / Nk + 1, so Rcon[i / Nk] is `rconFrom1 (j / Nk)`. The
constant enters byte 0 only (C5). -/
def nextWord (nk j : Nat) (before : List Col) : Col :=
  let prev := before.getD 0 ⟨0, 0, 0, 0⟩
  let temp :=
    if j % nk = 0 then xorCol (subWord (rotWord prev)) ⟨rconFrom1 (j / nk), 0, 0, 0⟩
    else if nk > 6 ∧ j % nk = 4 then subWord prev
    else prev
  xorCol (before.getD (nk - 1) ⟨0, 0, 0, 0⟩) temp

/-- n further words, put one by one before the words so far, which stand newest first; the first is w[Nk + j] (R161). -/
def expandWords (nk : Nat) : Nat → Nat → List Col → List Col
  | 0, _, before => before
  | n + 1, j, before => expandWords nk n (j + 1) (nextWord nk j before :: before)

/-- KeyExpansion(key): the words w[0 .. 4(Nr+1)-1], the loop bound exclusive (R161, C3). -/
def keyExpansion (ks : KeySize) (key : List Col) : List Col :=
  (expandWords (KeySize.nk ks) (4 * (KeySize.nr ks + 1) - KeySize.nk ks) 0 key.reverse).reverse

/-- RK0..RK59 from a schedule: word i for i < 4(Nr+1), and 0 beyond (R162, D22). -/
def scheduleMemory (ks : KeySize) (w : List Col) : Vector Word 60 :=
  Vector.ofFn fun i : Fin 60 => if i.val < 4 * (KeySize.nr ks + 1) then packWord (w.getD i.val ⟨0, 0, 0, 0⟩) else 0

/-- KEY_EXPAND (R162): INVALID_KEY when the full KEYLEN is not 16, 24 or 32 (R212), else RK and RKINFO. -/
def execKeyExpand (s : State) : Result :=
  match keySizeOf s.keylen with
  | none => raise .invalidKey s
  | some ks => complete (setSchedule (scheduleMemory ks (keyExpansion ks (keyCols s (KeySize.nk ks)))) ks s)

end Sys2Proof.Machine
end

