-- ==== Sys2Proof/Machine/BlockCipher.lean ====
section
/-! DEFINITION. BlockCipher (44_block_cipher.md): the cipher, its inverse, the equivalent form of the inverse, and the
commands ENCRYPT_BLOCK and DECRYPT_BLOCK. The working matrix is hidden state of one completion (R47, log 7). -/

namespace Sys2Proof.Machine

/-- The rounds of R170 that have a MixColumns, in the given order. -/
def cipherRounds (w : Vector Word 60) : List Nat → Matrix → Matrix
  | [], s => s
  | round :: rest, s => cipherRounds w rest (addRoundKey (mixColumns (shiftRows (subBytes s))) w round)

/-- Cipher(b, w, Nr) (R170): round key 0, rounds 1 .. Nr-1, and the final round without MixColumns. -/
def cipher (b : Block) (w : Vector Word 60) (nr : Nat) : Block :=
  let s := cipherRounds w (List.range' 1 (nr - 1)) (addRoundKey (toState b) w 0)
  fromState (addRoundKey (shiftRows (subBytes s)) w nr)

/-- The rounds of R171 that have an InvMixColumns, in the given order. -/
def invCipherRounds (w : Vector Word 60) : List Nat → Matrix → Matrix
  | [], s => s
  | round :: rest, s => invCipherRounds w rest (invMixColumns (addRoundKey (invSubBytes (invShiftRows s)) w round))

/-- InvCipher(b, w, Nr) (R171, C1): round key Nr, rounds Nr-1 down to 1, and the last round with round key 0. -/
def invCipher (b : Block) (w : Vector Word 60) (nr : Nat) : Block :=
  let s := invCipherRounds w (List.range' 1 (nr - 1)).reverse (addRoundKey (toState b) w nr)
  fromState (addRoundKey (invSubBytes (invShiftRows s)) w 0)

/-- The words dw of R172: InvMixColumn of the words of rounds 1 .. Nr-1, the others unchanged. Internal to the
equivalent form: RK always holds w. -/
def equivalentSchedule (w : Vector Word 60) (nr : Nat) : Vector Word 60 :=
  Vector.ofFn fun i : Fin 60 =>
    if i.val < 4 ∨ 4 * nr ≤ i.val then w[i] else packWord (invMixColumn (unpackWord w[i]))

/-- The rounds of the equivalent form (R172), in the given order. -/
def equivalentRounds (dw : Vector Word 60) : List Nat → Matrix → Matrix
  | [], s => s
  | round :: rest, s => equivalentRounds dw rest (addRoundKey (invMixColumns (invShiftRows (invSubBytes s))) dw round)

/-- The equivalent form of InvCipher that R172 allows. No command of the model uses it: a statement says that it gives
the same result. -/
def equivalentInvCipher (b : Block) (w : Vector Word 60) (nr : Nat) : Block :=
  let dw := equivalentSchedule w nr
  let s := equivalentRounds dw (List.range' 1 (nr - 1)).reverse (addRoundKey (toState b) dw nr)
  fromState (addRoundKey (invShiftRows (invSubBytes s)) dw 0)

/-- ENCRYPT_BLOCK (R173). -/
def execEncryptBlock (s : State) : Result :=
  withSchedule s fun ks => complete (setBlkOut (cipher (blockOfReg s.blkIn) s.rk (KeySize.nr ks)) s)

/-- DECRYPT_BLOCK (R174). -/
def execDecryptBlock (s : State) : Result :=
  withSchedule s fun ks => complete (setBlkOut (invCipher (blockOfReg s.blkIn) s.rk (KeySize.nr ks)) s)

end Sys2Proof.Machine
end

