-- ==== Sys2Proof/Machine/ChainedMode.lean ====
section
/-! DEFINITION. ChainedMode (45_chained_mode.md): padding, CBC in both directions, and the commands CBC_ENCRYPT and
CBC_DECRYPT. The chain value lives within one completion (R47, log 7). -/

namespace Sys2Proof.Machine

/-- k = 16 - (len mod 16), the pad length (R180). -/
def padLength (len : Nat) : Nat := 16 - len % 16

/-- Pad(m): k bytes, each equal to k, after the message (R180). -/
def pad (m : List Byte) : List Byte :=
  m ++ List.replicate (padLength m.length) (BitVec.ofNat 8 (padLength m.length))

/-- The chain of R181: each block is XORed with the chain value and encrypted, and becomes the next chain value. -/
def cbcEncryptBlocks (w : Vector Word 60) (nr : Nat) : Block → List Block → List Block
  | _, [] => []
  | chain, p :: ps =>
    let c := cipher (xorBlock p chain) w nr
    c :: cbcEncryptBlocks w nr c ps

/-- CbcEncrypt(iv, m, w, Nr): the IV, then the encrypted blocks of the padded message (R181). -/
def cbcEncrypt (iv : Block) (m : List Byte) (w : Vector Word 60) (nr : Nat) : List Byte :=
  blockBytes iv ++ blocksBytes (cbcEncryptBlocks w nr iv (fullBlocks (pad m)))

/-- The chain of R182: each block is decrypted and XORed with the chain value, and becomes the next chain value. -/
def cbcDecryptBlocks (w : Vector Word 60) (nr : Nat) : Block → List Block → List Block
  | _, [] => []
  | chain, c :: cs => xorBlock (invCipher c w nr) chain :: cbcDecryptBlocks w nr c cs

/-- CbcDecryptPadded(d, w, Nr): the first block is the IV; the result is the padded plaintext (R182). -/
def cbcDecryptPadded (d : List Byte) (w : Vector Word 60) (nr : Nat) : List Byte :=
  blocksBytes (cbcDecryptBlocks w nr (blockOfBytes d) (fullBlocks (d.drop 16)))

/-- CBC_ENCRYPT (R183). IN_LEN is an unbounded unsigned integer in the checks (R37). -/
def execCbcEncrypt (s : State) : Result :=
  withSchedule s fun ks =>
    let len := s.inLen.toNat
    if len > s.bufBytes ∨ len + 32 - len % 16 > s.bufBytes then raise .lengthOverflow s
    else withInput len s fun m =>
      let c := cbcEncrypt (blockOfReg s.iv) m s.rk (KeySize.nr ks)
      complete (writeOut c c.length s)

/-- CBC_DECRYPT (R184). The last byte of the padded plaintext is the pad length, the only pad byte checked (R182, C8); on
PADDING_ERROR nothing is written (R215), else the whole padded plaintext is (D20). -/
def execCbcDecrypt (s : State) : Result :=
  withSchedule s fun ks =>
    let len := s.inLen.toNat
    if len > s.bufBytes then raise .lengthOverflow s
    else if len % 16 ≠ 0 ∨ len ≤ 16 then raise .invalidCiphertextLength s
    else withInput len s fun d =>
      let p := cbcDecryptPadded d s.rk (KeySize.nr ks)
      let k := (p.getD (len - 17) 0).toNat
      if k < 1 ∨ k > 16 then raise .paddingError s
      else complete (writeOut p (len - 16 - k) s)

end Sys2Proof.Machine
end

