-- ==== Sys2Proof/Machine/Control.lean ====
section
/-! DEFINITION. Control (47_control.md): the command NOP, and the completion of an illegal word. -/

namespace Sys2Proof.Machine

/-- NOP (R204): ERR becomes OK, nothing else changes. -/
def execNop (s : State) : Result := complete s

/-- The completion of a word that is not legal: ILLEGAL_COMMAND, nothing else changes (R93, R219). -/
def execIllegal (s : State) : Result := raise .illegalCommand s

end Sys2Proof.Machine
end

