-- ==== Sys2Proof/Machine/CounterMode.lean ====
section
/-! DEFINITION. CounterMode (46_counter_mode.md): the counter increment, the keystream XOR, and the commands
CTR_INCREMENT, CTR_ENCRYPT and CTR_DECRYPT. The counter lives within one completion (R47, log 7). -/

namespace Sys2Proof.Machine

/-- The loop of R190 over the bytes of a block, last byte first: add 1 mod 256, and go on only from a byte that became
0x00. -/
def incBytes : List Byte → List Byte
  | [] => []
  | b :: bs => if b + 1 ≠ 0x00 then (b + 1) :: bs else (b + 1) :: incBytes bs

/-- Inc128(b): big-endian increment with carry from the last byte leftward, wrapping silently (R190). -/
def inc128 (b : Block) : Block := blockOfBytes (incBytes (blockBytes b).reverse).reverse

/-- The full blocks of R191 from a counter: each XORed with Cipher(counter), the counter then incremented. Answers the
blocks and the counter after the last. -/
def ctrBlocks (w : Vector Word 60) (nr : Nat) : Block → List Block → List Block × Block
  | ctr, [] => ([], ctr)
  | ctr, d :: ds =>
    let rest := ctrBlocks w nr (inc128 ctr) ds
    (xorBlock d (cipher ctr w nr) :: rest.1, rest.2)

/-- CtrXcrypt(iv, d, w, Nr): the full blocks, then the leftover bytes XORed with the leading bytes of Cipher(counter)
(R191). With no leftover byte nothing is added. -/
def ctrXcrypt (iv : Block) (d : List Byte) (w : Vector Word 60) (nr : Nat) : List Byte :=
  let full := ctrBlocks w nr iv (fullBlocks d)
  blocksBytes full.1 ++ List.zipWith (· ^^^ ·) (tailBytes d) (blockBytes (cipher full.2 w nr))

/-- CTR_INCREMENT (R192). -/
def execCtrIncrement (s : State) : Result := complete (setBlkOut (inc128 (blockOfReg s.blkIn)) s)

/-- CTR_ENCRYPT (R193). -/
def execCtrEncrypt (s : State) : Result :=
  withSchedule s fun ks =>
    let len := s.inLen.toNat
    if len + 16 > s.bufBytes then raise .lengthOverflow s
    else withInput len s fun m =>
      let iv := blockOfReg s.iv
      complete (writeOut (blockBytes iv ++ ctrXcrypt iv m s.rk (KeySize.nr ks)) (len + 16) s)

/-- CTR_DECRYPT (R194): the IV is the first 16 bytes of IN. -/
def execCtrDecrypt (s : State) : Result :=
  withSchedule s fun ks =>
    let len := s.inLen.toNat
    if len > s.bufBytes then raise .lengthOverflow s
    else if len < 16 then raise .invalidCiphertextLength s
    else withInput len s fun d =>
      complete (writeOut (ctrXcrypt (blockOfBytes d) (d.drop 16) s.rk (KeySize.nr ks)) (len - 16) s)

end Sys2Proof.Machine
end

