-- ==== Sys2Proof/Machine/Dispatch.lean ====
section
/-! DEFINITION. `exec`: the completion of each command (R203), one arm per row of the opcode table. -/

namespace Sys2Proof.Machine

def exec (i : Instr) (s : State) : Host.Outcome State Fault Refusal :=
  match i with
  | .nop => Sys2Proof.Machine.execNop s
  | .gfXtime => Sys2Proof.Machine.execGfXtime s
  | .gfMul => Sys2Proof.Machine.execGfMul s
  | .sbox => Sys2Proof.Machine.execSbox s
  | .invSbox => Sys2Proof.Machine.execInvSbox s
  | .subWord => Sys2Proof.Machine.execSubWord s
  | .rotWord => Sys2Proof.Machine.execRotWord s
  | .subBytes => Sys2Proof.Machine.execSubBytes s
  | .invSubBytes => Sys2Proof.Machine.execInvSubBytes s
  | .shiftRows => Sys2Proof.Machine.execShiftRows s
  | .invShiftRows => Sys2Proof.Machine.execInvShiftRows s
  | .mixColumns => Sys2Proof.Machine.execMixColumns s
  | .invMixColumns => Sys2Proof.Machine.execInvMixColumns s
  | .addRoundKey round => Sys2Proof.Machine.execAddRoundKey round s
  | .keyExpand => Sys2Proof.Machine.execKeyExpand s
  | .encryptBlock => Sys2Proof.Machine.execEncryptBlock s
  | .decryptBlock => Sys2Proof.Machine.execDecryptBlock s
  | .cbcEncrypt => Sys2Proof.Machine.execCbcEncrypt s
  | .cbcDecrypt => Sys2Proof.Machine.execCbcDecrypt s
  | .ctrEncrypt => Sys2Proof.Machine.execCtrEncrypt s
  | .ctrDecrypt => Sys2Proof.Machine.execCtrDecrypt s
  | .ctrIncrement => Sys2Proof.Machine.execCtrIncrement s

end Sys2Proof.Machine
end

