-- ==== Sys2Proof/WellFormed.lean ====
section
/-! DEFINITION. Which instructions a command word can carry: the one check is that ROUND fits its four bits (R92). -/

namespace Sys2Proof

/-- ROUND is an unsigned 4-bit number, 0..15 (R92, R99, log 9). The other commands have no operand field. -/
def Instr.wellFormed : Instr → Bool
  | .addRoundKey round => decide (round ≤ 15)
  | .nop | .gfXtime | .gfMul | .sbox | .invSbox | .subWord | .rotWord => true
  | .subBytes | .invSubBytes | .shiftRows | .invShiftRows | .mixColumns | .invMixColumns => true
  | .keyExpand | .encryptBlock | .decryptBlock => true
  | .cbcEncrypt | .cbcDecrypt | .ctrEncrypt | .ctrDecrypt | .ctrIncrement => true

end Sys2Proof
end

