-- ==== Sys2Proof/Decode.lean ====
section
/-! DEFINITION. The decoder, total on every 32-bit word (R97 of 30_encoding.md), and after it the encoder, both written
from the opcode map (R98) and the format CMD32 (R90). -/

namespace Sys2Proof

/-- Why a word is not legal (R93). Either way it completes with ILLEGAL_COMMAND (R219). -/
inductive IllegalWord where
  /-- OPCODE is none of the 22 values (R94). -/
  | reservedOpcode
  /-- A bit of the word that its format reserves is 1 (R90, R93). -/
  | reservedBits
  deriving DecidableEq, Repr

/-- OPCODE, bits [7:0] (R91). -/
def opcodeField (v : Word) : Byte := v.extractLsb' 0 8

/-- ROUND, bits [11:8] (R92). -/
def roundField (v : Word) : BitVec 4 := v.extractLsb' 8 4

/-- OPMAP (R97, R98): the commands without an operand field, by opcode. -/
def opMap : List (Byte × Instr) :=
  [(0x00, .nop), (0x01, .gfXtime), (0x02, .gfMul), (0x03, .sbox), (0x04, .invSbox), (0x05, .subWord), (0x06, .rotWord)]
  ++ [(0x10, .subBytes), (0x11, .invSubBytes), (0x12, .shiftRows), (0x13, .invShiftRows), (0x14, .mixColumns),
      (0x15, .invMixColumns)]
  ++ [(0x20, .keyExpand), (0x21, .encryptBlock), (0x22, .decryptBlock)]
  ++ [(0x30, .cbcEncrypt), (0x31, .cbcDecrypt), (0x32, .ctrEncrypt), (0x33, .ctrDecrypt), (0x34, .ctrIncrement)]

/-- decode(v) of R97: total, and rejecting by name. -/
def decode (v : Word) : Except IllegalWord Instr :=
  if opcodeField v = 0x16 then
    if v.extractLsb' 12 20 ≠ 0 then .error .reservedBits
    else .ok (.addRoundKey (roundField v).toNat)
  else if v.extractLsb' 8 24 ≠ 0 then .error .reservedBits
  else match opMap.lookup (opcodeField v) with
    | some i => .ok i
    | none => .error .reservedOpcode

/-- The command word of an instruction (the words of R98; ADD_ROUND_KEY carries ROUND in bits [11:8], R101). -/
def encode : Instr → Word
  | .nop => 0x00000000
  | .gfXtime => 0x00000001
  | .gfMul => 0x00000002
  | .sbox => 0x00000003
  | .invSbox => 0x00000004
  | .subWord => 0x00000005
  | .rotWord => 0x00000006
  | .subBytes => 0x00000010
  | .invSubBytes => 0x00000011
  | .shiftRows => 0x00000012
  | .invShiftRows => 0x00000013
  | .mixColumns => 0x00000014
  | .invMixColumns => 0x00000015
  | .addRoundKey round => 0x00000016 ||| (BitVec.ofNat 4 round).setWidth 32 <<< 8
  | .keyExpand => 0x00000020
  | .encryptBlock => 0x00000021
  | .decryptBlock => 0x00000022
  | .cbcEncrypt => 0x00000030
  | .cbcDecrypt => 0x00000031
  | .ctrEncrypt => 0x00000032
  | .ctrDecrypt => 0x00000033
  | .ctrIncrement => 0x00000034

/-- The host's question: the instruction whose bits are `w`, of which the table gives `nbits`; the bits above are 0.
A command is one 32-bit word moved whole over the bus (R62, R90), so its bits are the word's bits. -/
def decodeTableWord (nbits w : Nat) : Option Instr :=
  match decode (BitVec.ofNat 32 (w % 2 ^ nbits)) with
  | .ok i => some i
  | .error _ => none

end Sys2Proof
end

