-- ==== Sys2Proof/Machine/Bus.lean ====
section
/-! DEFINITION. The host's transfers (R200, R201 of 47_control.md): the register map of R20, HostWrite and HostRead. -/

namespace Sys2Proof.Machine

/-- The single registers of the map, by offset (R20). -/
def singleRegs : List (Nat × RegName) :=
  [(0x000, .id), (0x004, .version), (0x008, .caps), (0x010, .ctrl), (0x014, .status), (0x018, .cmd)]
  ++ [(0x020, .opa), (0x024, .opb), (0x028, .res), (0x030, .keylen), (0x034, .rkinfo), (0x038, .inLen), (0x03C, .outLen)]

/-- Word number (a - base) / 4 of a file of n words at `base`, if a lies in it. -/
def fileWord (base n a : Nat) : Option (Fin n) :=
  if h : base ≤ a ∧ (a - base) / 4 < n then some ⟨(a - base) / 4, h.2⟩ else none

/-- The files of registers of the map (R20, R39 to R44). -/
def fileReg (a : Nat) : Option RegName :=
  ((fileWord 0x040 8 a).map .key).or <|
  ((fileWord 0x060 4 a).map .iv).or <|
  ((fileWord 0x070 4 a).map .state).or <|
  ((fileWord 0x080 4 a).map .blkIn).or <|
  ((fileWord 0x090 4 a).map .blkOut).or <|
  (fileWord 0x100 60 a).map .rk

/-- The words of the buffers (R45, R46, R61, R67): an offset beyond BUF_BYTES is not mapped. -/
def bufferReg (bufBytes a : Nat) : Option RegName :=
  if inBase ≤ a ∧ a < inBase + bufBytes then some (.inWord (a - inBase))
  else if outBase ≤ a ∧ a < outBase + bufBytes then some (.outWord (a - outBase))
  else none

/-- What the map has at an offset; none for a reserved one (R20, R61, R67, R68). Only aligned offsets are asked. -/
def regAt (bufBytes : Nat) (off : Offset) : Option RegName :=
  match singleRegs.lookup off.toNat with
  | some r => some r
  | none => (fileReg off.toNat).or (bufferReg bufBytes off.toNat)

/-- offset(NAME) (R20, R99). DESIGN CHOICE (log 19): R99 puts no bound on the a of `IN+a` and `OUT+a`; an offset past the
16 KiB window is taken modulo 2^14, the width of bus_addr. -/
def offsetOf : RegName → Offset
  | .id => 0x000
  | .version => 0x004
  | .caps => 0x008
  | .ctrl => 0x010
  | .status => 0x014
  | .cmd => 0x018
  | .opa => 0x020
  | .opb => 0x024
  | .res => 0x028
  | .keylen => 0x030
  | .rkinfo => 0x034
  | .inLen => 0x038
  | .outLen => 0x03C
  | .key i => BitVec.ofNat 14 (0x040 + 4 * i.val)
  | .iv i => BitVec.ofNat 14 (0x060 + 4 * i.val)
  | .state i => BitVec.ofNat 14 (0x070 + 4 * i.val)
  | .blkIn i => BitVec.ofNat 14 (0x080 + 4 * i.val)
  | .blkOut i => BitVec.ofNat 14 (0x090 + 4 * i.val)
  | .rk i => BitVec.ofNat 14 (0x100 + 4 * i.val)
  | .inWord a => BitVec.ofNat 14 (inBase + a)
  | .outWord a => BitVec.ofNat 14 (outBase + a)

/-- A name that the map has for buffers of the given size: `IN+a` and `OUT+a` need a multiple of 4 within the buffer
(R67, R99). -/
def RegName.mapped (bufBytes : Nat) : RegName → Bool
  | .inWord a | .outWord a => decide (a % 4 = 0 ∧ a < bufBytes)
  | .id | .version | .caps | .ctrl | .status | .cmd | .opa | .opb | .res | .keylen | .rkinfo | .inLen | .outLen => true
  | .key _ | .iv _ | .state _ | .blkIn _ | .blkOut _ | .rk _ => true

/-- bus_addr[1:0] = 0 (R65). -/
def aligned (off : Offset) : Bool := off.extractLsb' 0 2 = 0

/-- The registers whose access is RW and whose write only stores (R20): STATUS, CTRL and CMD are taken apart in
`hostWrite`. -/
def RegName.writable : RegName → Bool
  | .opa | .opb | .keylen | .inLen | .key _ | .iv _ | .state _ | .blkIn _ | .inWord _ => true
  | .id | .version | .caps | .ctrl | .status | .cmd | .res | .rkinfo | .outLen | .blkOut _ | .rk _ | .outWord _ => false

/-- RESULT_SET of R201: what a command may be writing while it is in flight. -/
def RegName.isResult : RegName → Bool
  | .res | .rkinfo | .outLen | .state _ | .blkOut _ | .rk _ | .outWord _ => true
  | .id | .version | .caps | .ctrl | .status | .cmd | .opa | .opb | .keylen | .inLen | .key _ | .iv _ | .blkIn _ => false
  | .inWord _ => false

/-- The register stores v: a plain RW register takes the word, and anything else ignores it (R70, R200). -/
def storeReg (r : RegName) (v : Word) (s : State) : State :=
  match r with
  | .opa => { s with opa := v }
  | .opb => { s with opb := v }
  | .keylen => { s with keylen := v }
  | .inLen => { s with inLen := v }
  | .key i => { s with key := s.key.set i v }
  | .iv i => { s with iv := Quad.set s.iv i v }
  | .state i => { s with stateReg := Quad.set s.stateReg i v }
  | .blkIn i => { s with blkIn := Quad.set s.blkIn i v }
  | .inWord a => { s with mem := memWriteWord (inBase + a) v s.mem }
  | .id | .version | .caps | .ctrl | .status | .cmd | .res | .rkinfo | .outLen | .blkOut _ | .rk _ | .outWord _ => s

/-- The word at a register (R20, R201): CMD reads 0, reserved bits read 0; a buffer word with an unwritten byte faults
(R241, U1). -/
def regWord (r : RegName) (s : State) : Except Fault Word :=
  match r with
  | .id => .ok idWord
  | .version => .ok versionWord
  | .caps => .ok (capsWord s)
  | .ctrl => .ok (ctrlWord s)
  | .status => .ok (statusWord s)
  | .cmd => .ok 0
  | .opa => .ok s.opa
  | .opb => .ok s.opb
  | .res => .ok s.res
  | .keylen => .ok s.keylen
  | .rkinfo => .ok (rkInfoWord s)
  | .inLen => .ok s.inLen
  | .outLen => .ok s.outLen
  | .key i => .ok s.key[i]
  | .iv i => .ok (Quad.get s.iv i)
  | .state i => .ok (Quad.get s.stateReg i)
  | .blkIn i => .ok (Quad.get s.blkIn i)
  | .blkOut i => .ok (Quad.get s.blkOut i)
  | .rk i => .ok s.rk[i]
  | .inWord a => memReadWord (inBase + a) s.mem
  | .outWord a => memReadWord (outBase + a) s.mem

/-- A write of v to a mapped register, with all four strobes (R200): STATUS and CTRL are written at any time; while busy
any other write is discarded and sets OVR (R205); CMD issues; an RW register stores; an RO one ignores. -/
def writeReg (r : RegName) (v : Word) (s : State) : State :=
  match r with
  | .status => writeStatus v s
  | .ctrl => writeCtrl v s
  | .cmd => if State.busy s then setOverrun s else issue v s
  | .id | .version | .caps | .opa | .opb | .res | .keylen | .rkinfo | .inLen | .outLen | .key _ | .iv _ | .state _
  | .blkIn _ | .blkOut _ | .rk _ | .inWord _ | .outWord _ => if State.busy s then setOverrun s else storeReg r v s

/-- HostWrite(off, v) with its strobes (R200): an ERROR response has no other effect (R65 to R69). -/
def hostWrite (off : Offset) (v : Word) (strb : BitVec 4) (s : State) : State :=
  if aligned off = false ∨ strb ≠ 0b1111 then respond .error s
  else match regAt s.bufBytes off with
    | none => respond .error s
    | some r => respond .okayWrite (writeReg r v s)

/-- HostRead(off) (R201): the word it returns and the state after it. An ERROR response returns 0; a result register
while busy returns a freely drawn value (R246). -/
def hostRead (off : Offset) (s : State) : Except Fault (Word × State) :=
  if aligned off = false then .ok (0, respond .error s)
  else match regAt s.bufBytes off with
    | none => .ok (0, respond .error s)
    | some r =>
      if State.busy s && RegName.isResult r then
        .ok (Config.freeRead s.draws, respond (.okayRead (Config.freeRead s.draws)) (drawn s))
      else match regWord r s with
        | .error f => .error f
        | .ok v => .ok (v, respond (.okayRead v) s)

/-- One transfer as an event of its own (R74). -/
def transfer (t : Transfer) (s : State) : Result :=
  match t with
  | .write off v strb => .next (hostWrite off v strb s)
  | .read off =>
    match hostRead off s with
    | .error f => .fault f
    | .ok (_, s') => .next s'

/-- bus_rdata of the last transfer: the word read, and 0 with an ERROR response to a read (R60, R69). DESIGN CHOICE (log 14),
where R69 gives bus_rdata for a read alone: a write with an OKAY response drives no data, and one with an ERROR response
drives 0, since `Response.error` does not tell a write from a read. -/
def busRdata (s : State) : Option Word :=
  match s.resp with
  | some (.okayRead v) => some v
  | some .error => some 0
  | some .okayWrite | none => none

/-- bus_err of the last transfer (R60, R69). -/
def busErr (s : State) : Bool := s.resp == some .error

end Sys2Proof.Machine
end

