-- ==== Sys2Proof/Machine/Program.lean ====
section
/-! DEFINITION. The host program (R99 to R101 of 30_encoding.md): its lines, each at most one transfer a step, the host's
own control flow, and the pseudo-operations. The engine sees only the transfers (R99). -/

namespace Sys2Proof.Machine

/-- The strobes of a whole-word write (R66). -/
def fullStrobes : BitVec 4 := 0b1111

/-- The transfers a line's encoding names (R99): `(R|W, offset, data)`; `copy` reads, and its write depends on the value
read; the control-flow lines make no transfer. -/
def HostLine.transfers : HostLine → List Transfer
  | .wr r v => [.write (offsetOf r) v fullStrobes]
  | .rd r => [.read (offsetOf r)]
  | .cmd i => [.write (offsetOf .cmd) (encode i) fullStrobes]
  | .poll r _ _ => [.read (offsetOf r)]
  | .copy _ src => [.read (offsetOf src)]
  | .bnz _ _ _ | .jmp _ | .halt => []

/-- The program goes on to its next line. -/
def nextLine (s : State) : State := { s with pos := s.pos + 1 }

/-- The program continues at a line. -/
def gotoLine (n : Nat) (s : State) : State := { s with pos := n }

/-- The program has read v of the name at this offset. -/
def noteRead (off : Offset) (v : Word) (s : State) : State :=
  { s with lastReads := entryPut off.toNat v s.lastReads }

/-- What a `copy` carries between its read and its write. -/
def setHeld (v : Option Word) (s : State) : State := { s with held := v }

/-- The program reads a name and goes on with the value (R201, R99). -/
def programRead (r : RegName) (s : State) (rest : Word → State → State) : Result :=
  match hostRead (offsetOf r) s with
  | .error f => .fault f
  | .ok (v, s') => .next (rest v (noteRead (offsetOf r) v s'))

/-- The program writes a name (R200). -/
def programWrite (r : RegName) (v : Word) (s : State) : State := hostWrite (offsetOf r) v fullStrobes s

/-- `bnz` (R99): to the target if (last read of NAME & mask) is not 0. A name never read has no last read, which the
spec does not value: a free value (log 12). -/
def branch (r : RegName) (mask : Word) (target : Nat) (s : State) : State :=
  match entryGet (offsetOf r).toNat s.lastReads with
  | some v => if v &&& mask ≠ 0 then gotoLine target s else nextLine s
  | none => if Config.freeRead s.draws &&& mask ≠ 0 then gotoLine target (drawn s) else nextLine (drawn s)

/-- One step of a line (R99). `poll` stays on its line until the value fits; `copy` takes two steps, between which other
events may fall. -/
def runLine (l : HostLine) (s : State) : Result :=
  match l with
  | .wr r v => .next (nextLine (programWrite r v s))
  | .rd r => programRead r s fun _ s' => nextLine s'
  | .cmd i => .next (nextLine (programWrite .cmd (encode i) s))
  | .poll r mask value => programRead r s fun v s' => if v &&& mask = value then nextLine s' else s'
  | .bnz r mask target => .next (branch r mask target s)
  | .jmp target => .next (gotoLine target s)
  | .copy dst src =>
    match s.held with
    | none => programRead src s fun v s' => setHeld (some v) s'
    | some v => .next (nextLine (setHeld none (programWrite dst v s)))
  | .halt => .next (gotoLine s.program.length s)

/-- The program has performed its last line (R99 `halt`, R254). -/
def programEnded (s : State) : Bool := decide (s.program.length ≤ s.pos)

/-- The host program's turn: its next line, or nothing when it has ended. -/
def programStep (s : State) : Result :=
  match s.program[s.pos]? with
  | none => .next s
  | some l => runLine l s

/-- `wait` (R100). -/
def lineWait : List HostLine := [.poll .status 0x1 0x0]

/-- `run MNEMONIC[, r]` (R100). -/
def lineRun (i : Instr) : List HostLine := .cmd i :: lineWait

/-- `ack` (R100): clears DONE and OVR. -/
def lineAck : List HostLine := [.wr .status 0x00000006]

/-- Writes of consecutive names from a byte sequence, four bytes a word; a final partial word has its unused low lanes 0
(R63, R100). -/
def lineWrites : List RegName → List Byte → List HostLine
  | [], _ => []
  | r :: rs, bytes => .wr r (packWord (colOfBytes bytes)) :: lineWrites rs (bytes.drop 4)

/-- The names of the four words of a block register, or of consecutive words of a buffer or file. -/
def fourNames (f : Fin 4 → RegName) : List RegName := [f 0, f 1, f 2, f 3]

/-- `wrblk NAME, <32 hex digits>` (R100, R101). On another number of bytes than 16: log 20. -/
def lineWrBlk (f : Fin 4 → RegName) (bytes : List Byte) : List HostLine := lineWrites (fourNames f) bytes

/-- The names KEY0..KEY7. -/
def keyNames : List RegName := [.key 0, .key 1, .key 2, .key 3, .key 4, .key 5, .key 6, .key 7]

/-- The names IN+0, IN+4, ... of n words. -/
def inNames (n : Nat) : List RegName := (List.range n).map fun j => .inWord (4 * j)

/-- The names OUT+0, OUT+4, ... of n words. -/
def outNames (n : Nat) : List RegName := (List.range n).map fun j => .outWord (4 * j)

/-- `wrkey <2n hex digits>` (R100): the words of the key, then KEYLEN. DESIGN CHOICE (log 20), where R100 does not say: n / 4
is rounded down when n is no multiple of 4, words past KEY7 are dropped, and KEYLEN is written with n all the same. -/
def lineWrKey (bytes : List Byte) : List HostLine :=
  lineWrites (keyNames.take (bytes.length / 4)) bytes ++ [.wr .keylen (BitVec.ofNat 32 bytes.length)]

/-- `wrbuf IN, <2n hex digits>` (R100): ceil(n/4) words, then IN_LEN. -/
def lineWrBuf (bytes : List Byte) : List HostLine :=
  lineWrites (inNames ((bytes.length + 3) / 4)) bytes ++ [.wr .inLen (BitVec.ofNat 32 bytes.length)]

/-- `rdblk NAME` (R100). -/
def lineRdBlk (f : Fin 4 → RegName) : List HostLine := (fourNames f).map .rd

/-- `rdbuf OUT, n` (R100): ceil(n/4) reads. -/
def lineRdBuf (n : Nat) : List HostLine := (outNames ((n + 3) / 4)).map .rd

end Sys2Proof.Machine
end

