-- ==== Sys2Proof/Machine/Engine.lean ====
section
/-! DEFINITION. The engine's completion step (R203 of 47_control.md), and who moves next (R74 of 20_memory.md, log 1). -/

namespace Sys2Proof.Machine

/-- Complete() for the latched word v: the decoded command's meaning, run on the state at completion (log 6), or
ILLEGAL_COMMAND (R97, R203, R219). -/
def completeWord (v : Word) (s : State) : Result :=
  match decode v with
  | .ok i => exec i s
  | .error _ => execIllegal s

/-- The engine's turn: the completion, enabled exactly when BUSY = 1; else the engine does nothing (R203, R233). -/
def engineStep (s : State) : Result :=
  match s.latched with
  | none => .next s
  | some v => completeWord v s

/-- One event of the total order (R74). -/
def takeTurn (t : Turn) (s : State) : Result :=
  match t with
  | .engine => engineStep s
  | .bus tr => transfer tr s
  | .program => programStep s
  | .reset => .next (engineReset s)

/-- When no turn is offered: a command in flight completes, since its completion is weakly fair (R252); with none in
flight the host program goes on; with none left nothing happens (R233). -/
def unofferedTurn (s : State) : Turn := if State.busy s then .engine else .program

/-- The state with its first offered turn taken off. -/
def dropTurn (s : State) : State := { s with turns := s.turns.tail }

/-- One step of the machine: the first offered turn, or the one that falls due when none is offered. -/
def nextEvent (s : State) : Result :=
  match s.turns with
  | [] => takeTurn (unofferedTurn s) s
  | t :: _ => takeTurn t (dropTurn s)

/-- The command word v in flight, the engine's turn first: what the next step completes. -/
def placeCommand (v : Word) (s : State) : State :=
  { s with latched := some v, turns := .engine :: s.turns }

end Sys2Proof.Machine
end

