-- ==== Sys2Proof/Machine/Step.lean ====
section
/-! DEFINITION. `step`, one event of the machine, and the host's way to place a command (log 11). -/

namespace Sys2Proof.Machine

/-- One event of the total order of R74: a completion, a transfer, a line of the host program, or a reset. -/
def step (s : State) : Host.Outcome State Fault Refusal := nextEvent s

/-- The state with the command word `w` (its bits above `nbits` zero) latched and the engine's turn first, so that the
next step completes it. The engine fetches nothing (R21, R78): this stands for a host write of the word to CMD (R31,
R202), after which the engine moves (log 11). -/
def State.withFetchWord (s : State) (nbits w : Nat) : State :=
  placeCommand (BitVec.ofNat 32 (w % 2 ^ nbits)) s

end Sys2Proof.Machine
end

