-- ==== Sys2Proof/Safety.lean ====
section
/-! DEFINITION. What claims about the machine are stated in: the invariant every step keeps, the data a command can read
and write, what a clean run of a host program is, and the bytes of registers and buffers as the host counts them. -/

namespace Sys2Proof.Machine

/-- Byte r of word c of a four-word register: bits [31-8r : 24-8r], which for STATE is s[r][c] (R41, R63). -/
def regByte (q : Quad Word) (r c : Fin 4) : Byte := (Quad.get q c).extractLsb' (24 - 8 * r.val) 8

/-- The buffer byte at bus offset a; none if nothing has written it since reset. -/
def byteAt (s : State) (a : Nat) : Option Byte := entryGet a s.mem

/-- The buffer bytes from bus offset a on are these. -/
def bytesAt (s : State) (a : Nat) (bytes : List Byte) : Prop := ∀ k, k < bytes.length → byteAt s (a + k) = bytes[k]?

/-- Bytes 0 .. n-1 of IN have been written since reset (R241, R243). -/
def inputWritten (s : State) (n : Nat) : Prop := ∀ k, k < n → byteAt s (inBase + k) ≠ none

/-- value(b) = Σ b[i]·256^(15−i), the block as a big-endian number (R190). -/
def blockValue (b : Block) : Nat := (blockBytes b).foldl (fun n x => 256 * n + x.toNat) 0

/-- RKINFO and RK belong together: with VALID = 0 every word is 0; with VALID = 1 RK holds the schedule of some key of
that size, and 0 beyond it (R36, R44, R48). -/
def scheduleHeld (s : State) : Prop :=
  match s.rkInfo with
  | none => s.rk = Vector.replicate 60 0
  | some ks => ∃ key : List Col, key.length = KeySize.nk ks ∧ s.rk = scheduleMemory ks (keyExpansion ks key)

/-- The invariant of the machine: BUF_BYTES is a size R11 allows; memory is in its canonical form and within the two
buffers (R45, R46, R73); ERR never holds the code that nothing raises (R213); RK belongs to RKINFO (R48); the host
program's record of its reads is in canonical form. -/
structure Inv (s : State) : Prop where
  bufBytes : Config.bufBytesOk s.bufBytes
  memWf : Memory.wf s.mem = true
  memInBuffers : Memory.inBuffers s.bufBytes s.mem = true
  err : s.err ≠ .invalidBlockLength
  schedule : scheduleHeld s
  lastReads : entriesWf s.lastReads = true

/-- What a command can read or write: every register and buffer but CTRL and STATUS (R49, R203). -/
structure Datapath where
  bufBytes : Nat
  opa : Word
  opb : Word
  res : Word
  keylen : Word
  rkInfo : Option KeySize
  inLen : Word
  outLen : Word
  key : Vector Word 8
  iv : Quad Word
  stateReg : Quad Word
  blkIn : Quad Word
  blkOut : Quad Word
  rk : Vector Word 60
  mem : List Host.Cell
  deriving DecidableEq, Repr

/-- The datapath of a state. -/
def datapath (s : State) : Datapath where
  bufBytes := s.bufBytes
  opa := s.opa
  opb := s.opb
  res := s.res
  keylen := s.keylen
  rkInfo := s.rkInfo
  inLen := s.inLen
  outLen := s.outLen
  key := s.key
  iv := s.iv
  stateReg := s.stateReg
  blkIn := s.blkIn
  blkOut := s.blkOut
  rk := s.rk
  mem := s.mem

/-- The result codes a command can complete with (the `raised by` column of R211). -/
def possibleCodes : Instr → List ResultCode
  | .nop | .gfXtime | .gfMul | .sbox | .invSbox | .subWord | .rotWord => [.ok]
  | .subBytes | .invSubBytes | .shiftRows | .invShiftRows | .mixColumns | .invMixColumns => [.ok]
  | .addRoundKey _ => [.ok, .noKey, .badRound]
  | .keyExpand => [.ok, .invalidKey]
  | .encryptBlock | .decryptBlock => [.ok, .noKey]
  | .cbcEncrypt | .ctrEncrypt => [.ok, .noKey, .lengthOverflow]
  | .cbcDecrypt => [.ok, .noKey, .lengthOverflow, .invalidCiphertextLength, .paddingError]
  | .ctrDecrypt => [.ok, .noKey, .lengthOverflow, .invalidCiphertextLength]
  | .ctrIncrement => [.ok]

/-- The commands that read IN and write OUT (R45, R46). -/
def isMode : Instr → Bool
  | .cbcEncrypt | .cbcDecrypt | .ctrEncrypt | .ctrDecrypt => true
  | .nop | .gfXtime | .gfMul | .sbox | .invSbox | .subWord | .rotWord => false
  | .subBytes | .invSubBytes | .shiftRows | .invShiftRows | .mixColumns | .invMixColumns => false
  | .addRoundKey _ | .keyExpand | .encryptBlock | .decryptBlock | .ctrIncrement => false

/-- The outcome of commands performed one after another, each completing before the next (no other event between). -/
def execAll : List Instr → State → Result
  | [], s => .next s
  | i :: is, s =>
    match exec i s with
    | .next t => execAll is t
    | .fault f => .fault f
    | .refused r => .refused r

/-- The state commands by which a host follows R170 on STATE: round key 0, the rounds 1 .. Nr-1, and the last round
without MIX_COLUMNS (R232). -/
def roundCommands (ks : KeySize) : List Instr :=
  [.addRoundKey 0]
  ++ (List.range' 1 (KeySize.nr ks - 1)).flatMap (fun r => [.subBytes, .shiftRows, .mixColumns, .addRoundKey r])
  ++ [.subBytes, .shiftRows, .addRoundKey (KeySize.nr ks)]

/-- A host program's run has ended: its last line is done and no command is in flight (R254). -/
def runEnded (s : State) : Bool := programEnded s && !State.busy s

/-- From s to t the host program has recorded v as the last value read of a name, and kept what it holds of the others
(R99 `bnz`, log 12). -/
def readNoted (r : RegName) (v : Word) (s t : State) : Prop :=
  ∀ n, entryGet n t.lastReads = if n = (offsetOf r).toNat then some v else entryGet n s.lastReads

/-- A clean run so far: no transfer got an ERROR response (U12, U13) and no write was discarded (U14). -/
def cleanRun (s : State) : Bool := !s.hostFault && !s.ovr

end Sys2Proof.Machine
end

