-- ==== Sys2Proof/Certificates/Slice0/Obligations.lean ====
section
/-! DEFINITION. What this row states about the machine, from the numbered rules of spec/. Nothing here is proved. -/

open Sys2Proof Sys2Proof.Machine

/-! ## Encoding (30_encoding.md) -/

/-- Decoding the command word of any well-formed instruction gives it back (R97, R98, R101). -/
def Obligations.DecodeEncodeAgree : Prop :=
  ∀ i : Instr, i.wellFormed = true → decode (encode i) = .ok i

/-- Every legal word has one meaning: what a word decodes to is well-formed and encodes to that word (R96, R97). -/
def Obligations.EncodeDecodeAgree : Prop :=
  ∀ (w : Word) (i : Instr), decode w = .ok i → i.wellFormed = true ∧ encode i = w

/-- Words written out from the opcode map, one or more of each family (R98, R101). -/
def Obligations.SampleWordsDecode : Prop :=
  decode 0x00000000 = .ok .nop ∧ decode 0x00000002 = .ok .gfMul ∧ decode 0x00000004 = .ok .invSbox ∧
  decode 0x00000014 = .ok .mixColumns ∧ decode 0x00000A16 = .ok (.addRoundKey 10) ∧
  decode 0x00000F16 = .ok (.addRoundKey 15) ∧ decode 0x00000020 = .ok .keyExpand ∧
  decode 0x00000022 = .ok .decryptBlock ∧ decode 0x00000031 = .ok .cbcDecrypt ∧
  decode 0x00000034 = .ok .ctrIncrement ∧ decode 0x00000007 = .error .reservedOpcode ∧
  decode 0x00001016 = .error .reservedBits ∧ decode 0x80000021 = .error .reservedBits

/-- A word is legal exactly when OPCODE is one of the 22 values and its reserved bits are 0; a word that is not legal is
issued all the same, and completes with ERR = ILLEGAL_COMMAND and changes nothing else (R93, R219). -/
def Obligations.LegalWordsAndIllegalCompletion : Prop :=
  (∀ w : Word, (∃ i, decode w = .ok i) ↔
    w.extractLsb' 0 8 ∈ ([0x00, 0x01, 0x02, 0x03, 0x04, 0x05, 0x06, 0x10, 0x11, 0x12, 0x13, 0x14, 0x15, 0x16, 0x20, 0x21,
      0x22, 0x30, 0x31, 0x32, 0x33, 0x34] : List Byte) ∧
    (if w.extractLsb' 0 8 = (0x16 : Byte) then w.extractLsb' 12 20 = 0 else w.extractLsb' 8 24 = 0)) ∧
  ∀ w : Word, (¬ ∃ i, decode w = .ok i) →
    (∀ s : State, State.busy s = false →
      hostWrite 0x018 w 0b1111 s = { s with latched := some w, done := false, resp := some .okayWrite }) ∧
    ∀ s : State, s.latched = some w →
      engineStep s = .next { s with err := .illegalCommand, latched := none, done := true }

/-! ## Steps, reset and the invariant -/

/-- When the engine's turn comes with a word in flight that decodes to i, the step is exec of i, which is well-formed, at
the state with that turn taken off; an illegal word completes with ILLEGAL_COMMAND; every other turn does what it is
(R74, R203, R240). -/
def Obligations.StepRunsTheTurn : Prop :=
  (∀ (s : State) (w : Word) (i : Instr), s.latched = some w → decode w = .ok i →
    (s.turns = [] ∨ s.turns.head? = some .engine) → i.wellFormed = true ∧ step s = exec i (dropTurn s)) ∧
  (∀ (s : State) (w : Word) (e : IllegalWord), s.latched = some w → decode w = .error e →
    (s.turns = [] ∨ s.turns.head? = some .engine) → step s = .next (finish .illegalCommand (dropTurn s))) ∧
  (∀ s : State, s.latched = none → s.turns.head? = some .engine → step s = .next (dropTurn s)) ∧
  (∀ (s : State) (tr : Transfer), s.turns.head? = some (.bus tr) → step s = transfer tr (dropTurn s)) ∧
  (∀ s : State, s.turns.head? = some .program → step s = programStep (dropTurn s)) ∧
  (∀ s : State, s.turns.head? = some .reset → step s = .next (engineReset (dropTurn s))) ∧
  ∀ s : State, s.latched = none → s.turns = [] → step s = programStep s

/-- Every step keeps the invariant of the machine: BUF_BYTES a size R11 allows, memory canonical and within the buffers,
ERR never code 2 (R213), RK a schedule that belongs to RKINFO (R36, R44, R48). -/
def Obligations.StepKeepsInvariant : Prop :=
  ∀ s t : State, Inv s → step s = .next t → Inv t

/-- The reset state meets the invariant. -/
def Obligations.ResetMeetsInvariant : Prop := Inv State.reset

/-- Reset at any point, a command in flight or not, leaves the values of the spec's table: a command is aborted, no
completion happens, no destination takes a value, every buffer byte is unwritten (R240, R241, R242). The model's choices here:
an unwritten byte is one that is not listed (log 3), BUF_BYTES is a field that reset keeps, 4096 in State.reset (log 2), and
reset keeps the outside world's fields, so that it maps State.reset to itself (log 13). -/
def Obligations.ResetValues : Prop :=
  (∀ s : State, ∃ t, takeTurn .reset s = .next t ∧
    regWord .id t = .ok 0x4C424341 ∧ regWord .version t = .ok 0x00000001 ∧ regWord .caps t = regWord .caps s ∧
    regWord .ctrl t = .ok 0 ∧ regWord .status t = .ok 0 ∧ regWord .opa t = .ok 0 ∧ regWord .opb t = .ok 0 ∧
    regWord .res t = .ok 0 ∧ regWord .keylen t = .ok 0 ∧ regWord .inLen t = .ok 0 ∧ regWord .outLen t = .ok 0 ∧
    regWord .rkinfo t = .ok 0 ∧ (∀ i, regWord (.key i) t = .ok 0) ∧ (∀ i, regWord (.iv i) t = .ok 0) ∧
    (∀ i, regWord (.state i) t = .ok 0) ∧ (∀ i, regWord (.blkIn i) t = .ok 0) ∧ (∀ i, regWord (.blkOut i) t = .ok 0) ∧
    (∀ i, regWord (.rk i) t = .ok 0) ∧ (∀ a, byteAt t a = none) ∧ irq t = false ∧ t.latched = none ∧
    t.bufBytes = s.bufBytes) ∧
  engineReset State.reset = State.reset ∧ State.reset.bufBytes = 4096

/-- A command in flight is not in flight for ever: with n turns offered, one of the next n + 1 steps leaves the engine idle,
unless the run stops at a read of an unwritten byte. This is the model's form of the weak fairness of R252: it rests on the
list of turns being finite and on the completion coming first when none is offered (log 1). -/
def Obligations.CommandLeavesFlight : Prop :=
  ∀ s : State, State.busy s = true → ∃ k, k ≤ s.turns.length + 1 ∧
    ((∃ t, Host.Core.run Sys2Proof.core k s = .next t ∧ State.busy t = false) ∨
      ∃ a, Host.Core.run Sys2Proof.core k s = .fault (.unwrittenByte a))

/-- RK and RKINFO change only at the completion of a KEY_EXPAND with ERR = OK, and at reset: in any step of the machine
(R48). -/
def Obligations.ScheduleIsImmutable : Prop :=
  ∀ s t : State, step s = .next t →
    (t.rk = s.rk ∧ t.rkInfo = s.rkInfo) ∨
    (s.turns.head? = some .reset ∧ t.rk = Vector.replicate 60 0 ∧ t.rkInfo = none) ∨
    ((s.turns = [] ∨ s.turns.head? = some .engine) ∧ s.latched = some 0x00000020 ∧ t.latched = none ∧ t.err = .ok)

/-! ## Host transfers (20_memory.md, 47_control.md) -/

/-- The register map: each name of the map has the offset that the table of R20 prints, written out here by number; it is
found at that offset, which is aligned, and what is found at an aligned offset is a name of the map with that offset (R20,
R61). -/
def Obligations.RegisterMapAgrees : Prop :=
  (offsetOf .id = 0x000 ∧ offsetOf .version = 0x004 ∧ offsetOf .caps = 0x008 ∧ offsetOf .ctrl = 0x010 ∧
    offsetOf .status = 0x014 ∧ offsetOf .cmd = 0x018 ∧ offsetOf .opa = 0x020 ∧ offsetOf .opb = 0x024 ∧
    offsetOf .res = 0x028 ∧ offsetOf .keylen = 0x030 ∧ offsetOf .rkinfo = 0x034 ∧ offsetOf .inLen = 0x038 ∧
    offsetOf .outLen = 0x03C) ∧
  (∀ i : Fin 8, (offsetOf (.key i)).toNat = 0x040 + 4 * i.val) ∧
  (∀ i : Fin 4, (offsetOf (.iv i)).toNat = 0x060 + 4 * i.val ∧ (offsetOf (.state i)).toNat = 0x070 + 4 * i.val ∧
    (offsetOf (.blkIn i)).toNat = 0x080 + 4 * i.val ∧ (offsetOf (.blkOut i)).toNat = 0x090 + 4 * i.val) ∧
  (∀ i : Fin 60, (offsetOf (.rk i)).toNat = 0x100 + 4 * i.val) ∧
  (∀ a : Nat, a < 4096 → (offsetOf (.inWord a)).toNat = 0x1000 + a ∧ (offsetOf (.outWord a)).toNat = 0x2000 + a) ∧
  (∀ (n : Nat) (r : RegName), Config.bufBytesOk n → RegName.mapped n r = true →
    aligned (offsetOf r) = true ∧ regAt n (offsetOf r) = some r) ∧
  ∀ (n : Nat) (off : Offset) (r : RegName), Config.bufBytesOk n → aligned off = true → regAt n off = some r →
    RegName.mapped n r = true ∧ offsetOf r = off

/-- A misaligned, partial-width, out-of-range or reserved transfer gets an ERROR response and has no effect: a write
changes no state, OVR included, and a read returns 0 and changes no state. What is mapped is written out here from the
table of R20. The response ports take the response, and the model's own record `hostFault` (log 5) is left open (R65 to
R69). -/
def Obligations.BusErrorsHaveNoEffect : Prop :=
  ∀ (s : State) (off : Offset) (v : Word) (strb : BitVec 4),
    let a := off.toNat
    let listed := a ∈ [0x000, 0x004, 0x008, 0x010, 0x014, 0x018, 0x020, 0x024, 0x028, 0x030, 0x034, 0x038, 0x03C] ∨
      (0x040 ≤ a ∧ a < 0x0A0) ∨ (0x100 ≤ a ∧ a < 0x1F0) ∨ (0x1000 ≤ a ∧ a < 0x1000 + s.bufBytes) ∨
      (0x2000 ≤ a ∧ a < 0x2000 + s.bufBytes)
    (a % 4 ≠ 0 ∨ strb ≠ 0b1111 ∨ ¬ listed →
      hostWrite off v strb s = { s with resp := some .error, hostFault := (hostWrite off v strb s).hostFault }) ∧
    (a % 4 ≠ 0 ∨ ¬ listed →
      ∃ t, hostRead off s = .ok (0, t) ∧ t = { s with resp := some .error, hostFault := t.hostFault }) ∧
    (a % 4 = 0 ∧ strb = 0b1111 ∧ listed → (hostWrite off v strb s).resp = some .okayWrite)

/-- ID, VERSION and CAPS read their constants in every state, and a write to one while idle changes nothing
(R23, R24, R25). -/
def Obligations.IdentificationRegisters : Prop :=
  ∀ s : State, Config.bufBytesOk s.bufBytes →
    hostRead 0x000 s = .ok (0x4C424341, { s with resp := some (.okayRead 0x4C424341) }) ∧
    hostRead 0x004 s = .ok (0x00000001, { s with resp := some (.okayRead 0x00000001) }) ∧
    (∃ v : Word, hostRead 0x008 s = .ok (v, { s with resp := some (.okayRead v) }) ∧
      (v.extractLsb' 0 16).toNat = s.bufBytes ∧ v.extractLsb' 16 16 = 0) ∧
    (State.busy s = false → ∀ v : Word, ∀ off ∈ ([0x000, 0x004, 0x008] : List Offset),
      hostWrite off v 0b1111 s = { s with resp := some .okayWrite })

/-- A write of v to CMD while idle issues it: latched, BUSY 1, DONE 0, ERR and OVR unchanged; while busy the write is
discarded, so at most one command is held and nothing queues (R202). -/
def Obligations.IssueLatchesTheCommand : Prop :=
  ∀ (s : State) (v : Word),
    (State.busy s = false →
      hostWrite 0x018 v 0b1111 s = { s with latched := some v, done := false, resp := some .okayWrite } ∧
      State.busy (hostWrite 0x018 v 0b1111 s) = true) ∧
    (State.busy s = true → hostWrite 0x018 v 0b1111 s = { s with ovr := true, resp := some .okayWrite })

/-- While busy, a write to any mapped offset other than CTRL and STATUS is discarded and sets OVR, with an OKAY response;
writes to CTRL and STATUS take effect as they do while idle (R205). -/
def Obligations.BusyWritesAreDiscarded : Prop :=
  ∀ (s : State) (v : Word), State.busy s = true →
    (∀ (off : Offset) (r : RegName), aligned off = true → regAt s.bufBytes off = some r → r ≠ .ctrl → r ≠ .status →
      hostWrite off v 0b1111 s = { s with ovr := true, resp := some .okayWrite }) ∧
    hostWrite 0x010 v 0b1111 s = { s with ie := v.getLsbD 0, resp := some .okayWrite } ∧
    hostWrite 0x014 v 0b1111 s =
      { s with done := s.done && !v.getLsbD 1, ovr := s.ovr && !v.getLsbD 2, resp := some .okayWrite }

/-- Writing STATUS with bit 1 = 1 clears DONE, with bit 2 = 1 clears OVR; BUSY, ERR and the reserved bits ignore writes;
0x00000006 clears both; clearing DONE drops irq; with a completion, the two are separate events: a clear after it leaves
DONE 0, a clear before it leaves DONE 1 (R206). -/
def Obligations.StatusWriteOneToClear : Prop :=
  ∀ (s : State) (v : Word),
    hostWrite 0x014 v 0b1111 s =
      { s with done := s.done && !v.getLsbD 1, ovr := s.ovr && !v.getLsbD 2, resp := some .okayWrite } ∧
    (v.getLsbD 1 = true → irq (hostWrite 0x014 v 0b1111 s) = false) ∧
    (hostWrite 0x014 0x00000006 0b1111 s).done = false ∧ (hostWrite 0x014 0x00000006 0b1111 s).ovr = false ∧
    (∀ (i : Instr) (t : State), exec i s = .next t → v.getLsbD 1 = true → (hostWrite 0x014 v 0b1111 t).done = false) ∧
    ∀ (i : Instr) (t : State), exec i (hostWrite 0x014 v 0b1111 s) = .next t → t.done = true

/-- Writes to read-only registers, to read-only fields and to reserved bits are ignored with an OKAY response: of a word
written to CTRL only bit 0 counts, and of one written to STATUS only bits 1 and 2. CMD reads 0; reserved bits read 0;
writing 0 to a W1C bit leaves it (R70). -/
def Obligations.ReadOnlyWritesAreIgnored : Prop :=
  (∀ (s : State) (v : Word) (r : RegName), State.busy s = false → Config.bufBytesOk s.bufBytes →
    RegName.mapped s.bufBytes r = true → RegName.writable r = false → r ≠ .ctrl → r ≠ .status → r ≠ .cmd →
    hostWrite (offsetOf r) v 0b1111 s = { s with resp := some .okayWrite }) ∧
  (∀ (s : State) (v : Word),
    hostRead 0x010 (hostWrite 0x010 v 0b1111 s) =
      .ok (v &&& 1, { s with ie := v.getLsbD 0, resp := some (.okayRead (v &&& 1)) })) ∧
  (∀ s : State, hostRead 0x018 s = .ok (0, { s with resp := some (.okayRead 0) })) ∧
  (∀ s : State, statusWord s &&& 0xFFFFF0F8 = 0 ∧ rkInfoWord s &&& 0xFFF0F0FE = 0 ∧ ctrlWord s &&& 0xFFFFFFFE = 0) ∧
  (∀ (s : State) (v : Word), hostWrite 0x010 v 0b1111 s = hostWrite 0x010 (v &&& 0x00000001) 0b1111 s ∧
    hostWrite 0x014 v 0b1111 s = hostWrite 0x014 (v &&& 0x00000006) 0b1111 s) ∧
  ∀ s : State, hostWrite 0x014 0 0b1111 s = { s with resp := some .okayWrite }

/-- What a host read of STATUS and of CTRL returns in every state, busy or idle, bit by bit: STATUS 0 BUSY, 1 DONE, 2 OVR,
[11:8] ERR, and 0 in every other bit (R27 to R30, R201); CTRL 0 IE, and 0 in every other bit (R26); the read changes nothing
but the response. And the word of RKINFO: 0 VALID, [11:8] NK, [19:16] NR (R36). -/
def Obligations.StatusAndRkinfoFields : Prop :=
  ∀ s : State,
    hostRead 0x014 s = .ok (statusWord s, { s with resp := some (.okayRead (statusWord s)) }) ∧
    hostRead 0x010 s = .ok (ctrlWord s, { s with resp := some (.okayRead (ctrlWord s)) }) ∧
    (ctrlWord s).getLsbD 0 = s.ie ∧ (ctrlWord s).extractLsb' 1 31 = 0 ∧
    (statusWord s).extractLsb' 3 5 = 0 ∧ (statusWord s).extractLsb' 12 20 = 0 ∧
    (statusWord s).getLsbD 0 = State.busy s ∧ (statusWord s).getLsbD 1 = s.done ∧ (statusWord s).getLsbD 2 = s.ovr ∧
    (statusWord s).extractLsb' 8 4 = ResultCode.bits s.err ∧
    (s.rkInfo = none → rkInfoWord s = 0) ∧ (s.rkInfo = some .aes128 → rkInfoWord s = 0x000A0401) ∧
    (s.rkInfo = some .aes192 → rkInfoWord s = 0x000C0601) ∧ (s.rkInfo = some .aes256 → rkInfoWord s = 0x000E0801)

/-- A write while idle is visible to the next read of the same offset, for every register and buffer word that is
read-write (R74, R63). -/
def Obligations.WriteThenReadBack : Prop :=
  ∀ (s : State) (r : RegName) (v : Word), State.busy s = false → Config.bufBytesOk s.bufBytes →
    RegName.mapped s.bufBytes r = true → RegName.writable r = true →
    hostRead (offsetOf r) (hostWrite (offsetOf r) v 0b1111 s) =
      .ok (v, respond (.okayRead v) (hostWrite (offsetOf r) v 0b1111 s))

/-- A write of a read-write register while idle leaves every other register and buffer word as it was, and every buffer
byte outside the four stored ones (R20, R72). -/
def Obligations.WriteLeavesTheOthers : Prop :=
  ∀ (s : State) (r q : RegName) (v : Word), State.busy s = false → Config.bufBytesOk s.bufBytes →
    RegName.mapped s.bufBytes r = true → RegName.writable r = true → RegName.mapped s.bufBytes q = true → q ≠ r →
    regWord q (hostWrite (offsetOf r) v 0b1111 s) = regWord q s ∧
    ∀ a, (∀ b, r = .inWord b → a < inBase + b ∨ inBase + b + 4 ≤ a) →
      byteAt (hostWrite (offsetOf r) v 0b1111 s) a = byteAt s a

/-- No read has a side effect on the engine, and reads are idempotent: the same offset read again returns the same value,
unless it is a result register of a command in flight (R72). The ports, the record of a fault and the counter of free
values are no state of the engine. -/
def Obligations.ReadsHaveNoSideEffect : Prop :=
  ∀ (s t : State) (off : Offset) (v : Word), hostRead off s = .ok (v, t) →
    t = { s with resp := t.resp, hostFault := t.hostFault, draws := t.draws } ∧
    ((State.busy s = true ∧ ∃ r, regAt s.bufBytes off = some r ∧ RegName.isResult r = true) ∨
      ∃ u, hostRead off t = .ok (v, u))

/-- While busy, a read of RES, RKINFO, OUT_LEN, STATE, BLK_OUT, RK or an OUT word returns a freely drawn value, a fresh
draw at each read, and never faults; a read of any other register returns its value (R246, R201). -/
def Obligations.ReadsWhileBusy : Prop :=
  ∀ (s : State) (r : RegName), State.busy s = true → Config.bufBytesOk s.bufBytes →
    RegName.mapped s.bufBytes r = true →
    ((r = .res ∨ r = .rkinfo ∨ r = .outLen ∨ (∃ i, r = .state i) ∨ (∃ i, r = .blkOut i) ∨ (∃ i, r = .rk i) ∨
        ∃ a, r = .outWord a) →
      hostRead (offsetOf r) s = .ok (Config.freeRead s.draws,
        { s with resp := some (.okayRead (Config.freeRead s.draws)), draws := s.draws + 1 })) ∧
    (¬(r = .res ∨ r = .rkinfo ∨ r = .outLen ∨ (∃ i, r = .state i) ∨ (∃ i, r = .blkOut i) ∨ (∃ i, r = .rk i) ∨
        ∃ a, r = .outWord a) → ∀ v, regWord r s = .ok v →
      hostRead (offsetOf r) s = .ok (v, { s with resp := some (.okayRead v) }))

/-- A read of a buffer byte not written since reset faults: a host read of a word of IN, or of OUT while idle, faults when
one of its four bytes is unwritten, and otherwise answers them packed most significant first; a mode command past its
checks faults when a byte of its input is unwritten (R241, U1, R63). -/
def Obligations.UnwrittenBytesFault : Prop :=
  (∀ (s : State) (a : Nat) (b : Nat) (r : RegName), Config.bufBytesOk s.bufBytes → RegName.mapped s.bufBytes r = true →
    ((r = .inWord a ∧ b = inBase + a) ∨ (r = .outWord a ∧ b = outBase + a ∧ State.busy s = false)) →
    ((∃ k, k < 4 ∧ byteAt s (b + k) = none) →
      ∃ k, k < 4 ∧ byteAt s (b + k) = none ∧ hostRead (offsetOf r) s = .error (.unwrittenByte (b + k))) ∧
    ((∀ k, k < 4 → byteAt s (b + k) ≠ none) → ∃ (v : Word) (t : State), hostRead (offsetOf r) s = .ok (v, t) ∧
      ∀ k : Fin 4, byteAt s (b + k.val) = some (v.extractLsb' (24 - 8 * k.val) 8))) ∧
  ∀ (s : State) (ks : KeySize), s.rkInfo = some ks → ¬ inputWritten s s.inLen.toNat →
    (s.inLen.toNat + 32 - s.inLen.toNat % 16 ≤ s.bufBytes →
      ∃ k, k < s.inLen.toNat ∧ byteAt s (inBase + k) = none ∧ exec .cbcEncrypt s = .fault (.unwrittenByte (inBase + k))) ∧
    (s.inLen.toNat ≤ s.bufBytes → s.inLen.toNat % 16 = 0 → 16 < s.inLen.toNat →
      ∃ k, k < s.inLen.toNat ∧ byteAt s (inBase + k) = none ∧ exec .cbcDecrypt s = .fault (.unwrittenByte (inBase + k))) ∧
    (s.inLen.toNat + 16 ≤ s.bufBytes →
      ∃ k, k < s.inLen.toNat ∧ byteAt s (inBase + k) = none ∧ exec .ctrEncrypt s = .fault (.unwrittenByte (inBase + k))) ∧
    (s.inLen.toNat ≤ s.bufBytes → 16 ≤ s.inLen.toNat →
      ∃ k, k < s.inLen.toNat ∧ byteAt s (inBase + k) = none ∧ exec .ctrDecrypt s = .fault (.unwrittenByte (inBase + k)))

/-- While a command is in flight no transfer of any master and no line of the host program changes an operand, a result,
the latched word or ERR (R75, R205). -/
def Obligations.OperandsStableInFlight : Prop :=
  ∀ s t : State, State.busy s = true →
    ((∃ tr, transfer tr s = .next t) ∨ programStep s = .next t) →
    datapath t = datapath s ∧ t.latched = s.latched ∧ t.err = s.err

/-- A `copy` line reads SRC in one step and writes the value that read returned to DST in its next, whatever DST is: every
register, flag and the command in flight are as a write of that value on the state before would leave them. A `rd` line
reads. A `poll` line reads and stays until the value fits. Each of the three records the value as the last one read of its
name, and keeps what is recorded of the others. A `bnz` line goes, in every state, by the value so recorded of its name,
whatever line read it; of a name never read it goes by a free value (log 12). A `wr` line writes, a `cmd` line writes the
command's word to CMD, `jmp` goes to its line and `halt` ends the program (R99; the position, the record of reads and the
held value are the model's form, log 12, and so is a name past the window, log 19). -/
def Obligations.HostLinesMove : Prop :=
  (∀ (s s' : State) (dst src : RegName) (v : Word), s.program[s.pos]? = some (.copy dst src) → s.held = none →
    hostRead (offsetOf src) s = .ok (v, s') →
    ∃ t u, programStep s = .next t ∧ t = { s' with lastReads := t.lastReads, held := some v } ∧
      readNoted src v s t ∧
      u.lastReads = t.lastReads ∧ programStep t = .next u ∧ u = { hostWrite (offsetOf dst) v 0b1111 t with pos := s.pos + 1, held := none } ∧
      let w := hostWrite (offsetOf dst) v 0b1111 s
      datapath u = datapath w ∧ u.latched = w.latched ∧ u.ie = w.ie ∧ u.done = w.done ∧ u.ovr = w.ovr ∧ u.err = w.err) ∧
  (∀ (s s' : State) (r : RegName) (mask value v : Word), s.program[s.pos]? = some (.poll r mask value) →
    hostRead (offsetOf r) s = .ok (v, s') →
    ∃ t, programStep s = .next t ∧ datapath t = datapath s ∧
      t = { s' with lastReads := t.lastReads, pos := t.pos } ∧
      readNoted r v s t ∧
      t.pos = (if v &&& mask = value then s.pos + 1 else s.pos) ∧
      ∀ (mask' : Word) (target : Nat), t.program[t.pos]? = some (.bnz r mask' target) →
        ∃ u, programStep t = .next u ∧ u = { t with pos := if v &&& mask' ≠ 0 then target else t.pos + 1 }) ∧
  (∀ (s s' : State) (r : RegName) (v : Word), s.program[s.pos]? = some (.rd r) → hostRead (offsetOf r) s = .ok (v, s') →
    ∃ t, programStep s = .next t ∧ t = { s' with lastReads := t.lastReads, pos := s.pos + 1 } ∧
      readNoted r v s t) ∧
  (∀ (s : State) (r : RegName) (mask : Word) (target : Nat), s.program[s.pos]? = some (.bnz r mask target) →
    (∀ v : Word, entryGet (offsetOf r).toNat s.lastReads = some v →
      programStep s = .next { s with pos := if v &&& mask ≠ 0 then target else s.pos + 1 }) ∧
    (entryGet (offsetOf r).toNat s.lastReads = none →
      programStep s = .next { s with draws := s.draws + 1,
                                     pos := if Config.freeRead s.draws &&& mask ≠ 0 then target else s.pos + 1 })) ∧
  (∀ (s : State) (i : Instr), s.program[s.pos]? = some (.cmd i) →
    programStep s = .next { hostWrite 0x018 (encode i) 0b1111 s with pos := s.pos + 1 }) ∧
  (∀ (s : State) (target : Nat), s.program[s.pos]? = some (.jmp target) →
    programStep s = .next { s with pos := target }) ∧
  (∀ s : State, s.program[s.pos]? = some .halt → ∃ t, programStep s = .next t ∧ t = { s with pos := t.pos } ∧
    programEnded t = true ∧ programStep t = .next t) ∧
  ∀ (s : State) (r : RegName) (v : Word), s.program[s.pos]? = some (.wr r v) →
    programStep s = .next { hostWrite (offsetOf r) v 0b1111 s with pos := s.pos + 1 }

/-! ## Every command (47_control.md, 60_exceptions.md) -/

/-- Execute is total: every command completes in every state, the mode commands wherever the input they would read has
been written (R203, R241). -/
def Obligations.EveryCommandCompletes : Prop :=
  ∀ (i : Instr) (s : State), (isMode i = true → inputWritten s s.inLen.toNat) →
    ∃ t, exec i s = .next t ∧ t.latched = none ∧ t.done = true

/-- Execute is a function of the datapath alone: no command reads CTRL or STATUS, the outside world or the model's own
fields, so two states that agree on the datapath give the same result (R49, R203). -/
def Obligations.ExecuteReadsOnlyTheDatapath : Prop :=
  ∀ (i : Instr) (s u : State), datapath s = datapath u →
    (∀ t, exec i s = .next t → ∃ v, exec i u = .next v ∧ datapath t = datapath v ∧ t.err = v.err) ∧
    (∀ f, exec i s = .fault f → exec i u = .fault f)

/-- Errors are precise: after an error completion the state is the one at issue except ERR, BUSY and DONE, and irq rises
if IE = 1 (R210). -/
def Obligations.ErrorCompletionsArePrecise : Prop :=
  ∀ (i : Instr) (s t : State), exec i s = .next t → t.err ≠ .ok →
    t = { s with err := t.err, latched := none, done := true } ∧ irq t = s.ie

/-- The result codes each command can complete with, and their numbers; no command raises code 2 (R211, R213). -/
def Obligations.ResultCodesOfCommands : Prop :=
  (∀ (i : Instr) (s t : State), exec i s = .next t → t.err ∈ possibleCodes i) ∧
  (∀ i : Instr, ResultCode.invalidBlockLength ∉ possibleCodes i) ∧
  [ResultCode.ok, .invalidKey, .invalidBlockLength, .invalidCiphertextLength, .paddingError, .noKey, .lengthOverflow,
    .badRound, .illegalCommand].map ResultCode.bits = [0, 1, 2, 3, 4, 5, 6, 7, 8]

/-- NO_KEY: the seven commands that read the schedule raise it, before any other check, exactly while RKINFO.VALID = 0;
the others never do (R216). -/
def Obligations.NoKeyIsRaised : Prop :=
  (∀ (i : Instr) (s : State), s.rkInfo = none →
    ((∃ r, i = .addRoundKey r) ∨ i ∈ [.encryptBlock, .decryptBlock, .cbcEncrypt, .cbcDecrypt, .ctrEncrypt, .ctrDecrypt]) →
    exec i s = .next { s with err := .noKey, latched := none, done := true }) ∧
  (∀ (i : Instr) (s t : State) (ks : KeySize), s.rkInfo = some ks → exec i s = .next t → t.err ≠ .noKey) ∧
  ∀ (i : Instr) (s t : State), i ∈ [.nop, .gfXtime, .gfMul, .sbox, .invSbox, .subWord, .rotWord, .subBytes, .invSubBytes,
      .shiftRows, .invShiftRows, .mixColumns, .invMixColumns, .keyExpand, .ctrIncrement] →
    exec i s = .next t → t.err ≠ .noKey

/-- LENGTH_OVERFLOW and INVALID_CIPHERTEXT_LENGTH of the mode commands, with a schedule: before any buffer access, in that
order, and only there (R217, R214). -/
def Obligations.LengthErrorsAreRaised : Prop :=
  ∀ (s : State) (ks : KeySize), s.rkInfo = some ks →
    let L := s.inLen.toNat
    (L > s.bufBytes ∨ L + 32 - L % 16 > s.bufBytes →
      exec .cbcEncrypt s = .next { s with err := .lengthOverflow, latched := none, done := true }) ∧
    (L > s.bufBytes →
      exec .cbcDecrypt s = .next { s with err := .lengthOverflow, latched := none, done := true } ∧
      exec .ctrDecrypt s = .next { s with err := .lengthOverflow, latched := none, done := true }) ∧
    (L + 16 > s.bufBytes →
      exec .ctrEncrypt s = .next { s with err := .lengthOverflow, latched := none, done := true }) ∧
    (L ≤ s.bufBytes → L % 16 ≠ 0 ∨ L ≤ 16 →
      exec .cbcDecrypt s = .next { s with err := .invalidCiphertextLength, latched := none, done := true }) ∧
    (L ≤ s.bufBytes → L < 16 →
      exec .ctrDecrypt s = .next { s with err := .invalidCiphertextLength, latched := none, done := true }) ∧
    ∀ (i : Instr) (t : State), exec i s = .next t →
      (t.err = .lengthOverflow →
        (i = .cbcEncrypt ∧ (L > s.bufBytes ∨ L + 32 - L % 16 > s.bufBytes)) ∨ (i = .cbcDecrypt ∧ L > s.bufBytes) ∨
        (i = .ctrEncrypt ∧ L + 16 > s.bufBytes) ∨ (i = .ctrDecrypt ∧ L > s.bufBytes)) ∧
      (t.err = .invalidCiphertextLength → (i = .cbcDecrypt ∧ (L % 16 ≠ 0 ∨ L ≤ 16)) ∨ (i = .ctrDecrypt ∧ L < 16))

/-- The interrupt output is DONE and IE, whatever else: it rises with every completion while IE = 1, successful or not,
an illegal word's among them; in any step of the machine DONE rises only at a completion, the engine's turn with a word in
flight; irq falls with issue and with a clear of DONE, follows a write of IE at once and leaves DONE pending, and no read
clears anything (R223, R224). -/
def Obligations.InterruptLine : Prop :=
  (∀ s : State, irq s = ((statusWord s).getLsbD 1 && (ctrlWord s).getLsbD 0)) ∧
  (∀ (i : Instr) (s t : State), exec i s = .next t → irq t = s.ie) ∧
  (∀ (s t : State) (w : Word), s.latched = some w → engineStep s = .next t → t.done = true ∧ irq t = s.ie) ∧
  (∀ s t : State, step s = .next t → t.done = true →
    s.done = true ∨ ((s.turns = [] ∨ s.turns.head? = some .engine) ∧ s.latched ≠ none ∧ t.latched = none)) ∧
  (∀ (s : State) (v : Word), State.busy s = false → irq (hostWrite 0x018 v 0b1111 s) = false) ∧
  (∀ (s : State) (v : Word), irq (hostWrite 0x010 v 0b1111 s) = (s.done && v.getLsbD 0) ∧
    (hostWrite 0x010 v 0b1111 s).done = s.done) ∧
  (∀ (s : State) (v : Word), irq (hostWrite 0x014 v 0b1111 s) = (irq s && !v.getLsbD 1)) ∧
  ∀ (s t : State) (off : Offset) (v : Word), hostRead off s = .ok (v, t) → irq t = irq s

/-- The frame of the commands that write one register: NOP none, the byte and word commands RES, the state commands STATE,
ENCRYPT_BLOCK, DECRYPT_BLOCK and CTR_INCREMENT BLK_OUT; nothing else but ERR, BUSY and DONE changes, and every byte of
memory reads as before (R207). -/
def Obligations.FrameOfRegisterCommands : Prop :=
  (∀ s t : State, exec .nop s = .next t → t = { s with err := .ok, latched := none, done := true }) ∧
  (∀ (i : Instr) (s t : State), i ∈ [.gfXtime, .gfMul, .sbox, .invSbox, .subWord, .rotWord] → exec i s = .next t →
    t = { s with res := t.res, err := .ok, latched := none, done := true } ∧ ∀ a, byteAt t a = byteAt s a) ∧
  (∀ (i : Instr) (s t : State),
    i ∈ [.subBytes, .invSubBytes, .shiftRows, .invShiftRows, .mixColumns, .invMixColumns] ∨ (∃ r, i = .addRoundKey r) →
    exec i s = .next t →
    t = { s with stateReg := t.stateReg, err := t.err, latched := none, done := true } ∧ ∀ a, byteAt t a = byteAt s a) ∧
  ∀ (i : Instr) (s t : State), i ∈ [.encryptBlock, .decryptBlock, .ctrIncrement] → exec i s = .next t →
    t = { s with blkOut := t.blkOut, err := t.err, latched := none, done := true } ∧ ∀ a, byteAt t a = byteAt s a

/-- The frame of KEY_EXPAND: RK and RKINFO, and ERR, BUSY and DONE; KEY and KEYLEN stay, and every byte of memory reads as
before (R207, R163). -/
def Obligations.FrameOfKeyExpand : Prop :=
  ∀ s t : State, exec .keyExpand s = .next t →
    t = { s with rk := t.rk, rkInfo := t.rkInfo, err := t.err, latched := none, done := true } ∧
    ∀ a, byteAt t a = byteAt s a

/-- The frame of the mode commands: OUT_LEN, the OUT bytes from OUTBASE on that the rule names (their number computed here
from IN_LEN), and ERR, BUSY and DONE; every other byte of memory, all of IN among them, reads as before (R207, R46). -/
def Obligations.FrameOfModeCommands : Prop :=
  ∀ (i : Instr) (n : Nat) (s t : State),
    (i = .cbcEncrypt ∧ n = s.inLen.toNat + 32 - s.inLen.toNat % 16) ∨ (i = .ctrEncrypt ∧ n = s.inLen.toNat + 16) ∨
    (i = .cbcDecrypt ∧ n = s.inLen.toNat - 16) ∨ (i = .ctrDecrypt ∧ n = s.inLen.toNat - 16) →
    exec i s = .next t →
    t = { s with mem := t.mem, outLen := t.outLen, err := t.err, latched := none, done := true } ∧
    ∀ a, a < outBase ∨ outBase + n ≤ a → byteAt t a = byteAt s a

/-- The engine writes no byte outside OUT, whatever the command: IN is never written (R73, R45, R255). -/
def Obligations.EngineWritesOnlyOut : Prop :=
  ∀ (i : Instr) (s t : State), exec i s = .next t →
    ∀ a, a < outBase ∨ outBase + s.bufBytes ≤ a → byteAt t a = byteAt s a

/-! ## Control and byte commands (47, 40, 41) -/

/-- NOP sets ERR to OK and changes nothing else but BUSY and DONE, in every state (R204). -/
def Obligations.NopCompletes : Prop :=
  decode 0x00000000 = .ok .nop ∧
  (∀ w : Word, w.extractLsb' 0 8 = (0 : Byte) → w ≠ 0 → ∃ e, decode w = .error e) ∧
  ∀ s : State, exec .nop s = .next { s with err := .ok, latched := none, done := true }

/-- GF_XTIME: OPA[7:0] doubled in the field, zero-extended into RES; OPA[31:8] is ignored (R121, R123). -/
def Obligations.GfXtimeResult : Prop :=
  decode 0x00000001 = .ok .gfXtime ∧
  ∀ s : State,
    let a : Byte := s.opa.extractLsb' 0 8
    let d : Byte := BitVec.ofNat 8 (2 * a.toNat)
    exec .gfXtime s = .next { s with
      res := (if 128 ≤ a.toNat then d ^^^ 0x1B else d).setWidth 32, err := .ok, latched := none, done := true }

/-- GF_MUL: the sum over the bits i of OPB[7:0] that are 1 of OPA[7:0] doubled i times, zero-extended into RES
(R122, R124). -/
def Obligations.GfMulResult : Prop :=
  decode 0x00000002 = .ok .gfMul ∧
  ∀ s : State, exec .gfMul s = .next { s with
    res := ((List.range 8).foldr (fun i p =>
      (if s.opb.getLsbD i then xtime^[i] (s.opa.extractLsb' 0 8) else 0) ^^^ p) (0 : Byte)).setWidth 32,
    err := .ok, latched := none, done := true }

/-- The laws of the field: mul is commutative and associative, distributes over ⊕, has identity 0x01 and annihilator 0x00,
doubling is multiplication by 0x02, and every nonzero byte has exactly one inverse (R125). -/
def Obligations.FieldLaws : Prop :=
  (∀ a b : Byte, gfMul a b = gfMul b a) ∧ (∀ a b c : Byte, gfMul (gfMul a b) c = gfMul a (gfMul b c)) ∧
  (∀ a b c : Byte, gfMul a (b ^^^ c) = gfMul a b ^^^ gfMul a c) ∧ (∀ a : Byte, gfMul a 0x01 = a) ∧
  (∀ a : Byte, gfMul a 0x00 = 0x00) ∧ (∀ a : Byte, xtime a = gfMul a 0x02) ∧
  ∀ a : Byte, a ≠ 0 → ∃ b, gfMul b a = 0x01 ∧ ∀ c, gfMul c a = 0x01 → c = b

/-- The forward table is the one its description names: the affine transform of the inverse in the field, 0 for 0 (R130);
and the inverse table undoes it both ways (R131). -/
def Obligations.TablesAreAffineInverse : Prop :=
  (∀ a b : Byte, (gfMul b a = 0x01 ∨ (a = 0 ∧ b = 0)) →
    sbox a = b ^^^ b.rotateLeft 1 ^^^ b.rotateLeft 2 ^^^ b.rotateLeft 3 ^^^ b.rotateLeft 4 ^^^ 0x63) ∧
  (∀ a : Byte, invSbox (sbox a) = a) ∧ ∀ a : Byte, sbox (invSbox a) = a

/-- SBOX and INV_SBOX: the entry of OPA[7:0], zero-extended into RES; and INV_SBOX run on the result of SBOX gives the byte
back (R132, R133). -/
def Obligations.SboxCommands : Prop :=
  decode 0x00000003 = .ok .sbox ∧ decode 0x00000004 = .ok .invSbox ∧
  (∀ s : State, exec .sbox s = .next { s with
    res := (sbox (s.opa.extractLsb' 0 8)).setWidth 32, err := .ok, latched := none, done := true }) ∧
  (∀ s : State, exec .invSbox s = .next { s with
    res := (invSbox (s.opa.extractLsb' 0 8)).setWidth 32, err := .ok, latched := none, done := true }) ∧
  ∀ s : State, ∃ t u, exec .sbox s = .next t ∧ exec .invSbox { t with opa := t.res } = .next u ∧
    u.res = (s.opa.extractLsb' 0 8).setWidth 32

/-- SUB_WORD substitutes each byte of OPA on its own, and ROT_WORD rotates OPA left by 8 bits; the result goes to RES and
OPA stays; four rotations give the word back (R134 to R137). -/
def Obligations.WordCommands : Prop :=
  decode 0x00000005 = .ok .subWord ∧ decode 0x00000006 = .ok .rotWord ∧
  (∀ s : State, ∃ t, exec .subWord s = .next t ∧
    t = { s with res := t.res, err := .ok, latched := none, done := true } ∧
    ∀ k : Fin 4, t.res.extractLsb' (8 * k.val) 8 = sbox (s.opa.extractLsb' (8 * k.val) 8)) ∧
  (∀ s : State, exec .rotWord s = .next { s with
    res := s.opa <<< 8 ||| s.opa >>> 24, err := .ok, latched := none, done := true }) ∧
  ∀ c : Col, rotWord (rotWord (rotWord (rotWord c))) = c

/-! ## State commands (42) -/

/-- SUB_BYTES, INV_SUB_BYTES, SHIFT_ROWS and INV_SHIFT_ROWS, byte by byte of STATE, where byte r of word c is s[r][c]:
substitution lane by lane, and rotation of row r left or right by r (R141 to R148). -/
def Obligations.SubstitutionAndRowCommands : Prop :=
  ∀ s : State,
    (∃ t, exec .subBytes s = .next t ∧ t = { s with stateReg := t.stateReg, err := .ok, latched := none, done := true } ∧
      ∀ r c, regByte t.stateReg r c = sbox (regByte s.stateReg r c)) ∧
    (∃ t, exec .invSubBytes s = .next t ∧
      t = { s with stateReg := t.stateReg, err := .ok, latched := none, done := true } ∧
      ∀ r c, regByte t.stateReg r c = invSbox (regByte s.stateReg r c)) ∧
    (∃ t, exec .shiftRows s = .next t ∧ t = { s with stateReg := t.stateReg, err := .ok, latched := none, done := true } ∧
      ∀ r c, regByte t.stateReg r c = regByte s.stateReg r ⟨(c.val + r.val) % 4, Nat.mod_lt _ (Nat.succ_pos 3)⟩) ∧
    (∃ t, exec .invShiftRows s = .next t ∧
      t = { s with stateReg := t.stateReg, err := .ok, latched := none, done := true } ∧
      ∀ r c, regByte t.stateReg r c = regByte s.stateReg r ⟨(c.val + 4 - r.val) % 4, Nat.mod_lt _ (Nat.succ_pos 3)⟩)

/-- MIX_COLUMNS and INV_MIX_COLUMNS, column by column of STATE, every output from the old column (R149 to R152). -/
def Obligations.ColumnCommands : Prop :=
  ∀ s : State,
    (∃ t, exec .mixColumns s = .next t ∧ t = { s with stateReg := t.stateReg, err := .ok, latched := none, done := true } ∧
      ∀ c, let a := fun r => regByte s.stateReg r c
        regByte t.stateReg 0 c = xtime (a 0) ^^^ (xtime (a 1) ^^^ a 1) ^^^ a 2 ^^^ a 3 ∧
        regByte t.stateReg 1 c = a 0 ^^^ xtime (a 1) ^^^ (xtime (a 2) ^^^ a 2) ^^^ a 3 ∧
        regByte t.stateReg 2 c = a 0 ^^^ a 1 ^^^ xtime (a 2) ^^^ (xtime (a 3) ^^^ a 3) ∧
        regByte t.stateReg 3 c = (xtime (a 0) ^^^ a 0) ^^^ a 1 ^^^ a 2 ^^^ xtime (a 3)) ∧
    (∃ t, exec .invMixColumns s = .next t ∧
      t = { s with stateReg := t.stateReg, err := .ok, latched := none, done := true } ∧
      ∀ c, let a := fun r => regByte s.stateReg r c
        regByte t.stateReg 0 c = gfMul 0x0E (a 0) ^^^ gfMul 0x0B (a 1) ^^^ gfMul 0x0D (a 2) ^^^ gfMul 0x09 (a 3) ∧
        regByte t.stateReg 1 c = gfMul 0x09 (a 0) ^^^ gfMul 0x0E (a 1) ^^^ gfMul 0x0B (a 2) ^^^ gfMul 0x0D (a 3) ∧
        regByte t.stateReg 2 c = gfMul 0x0D (a 0) ^^^ gfMul 0x09 (a 1) ^^^ gfMul 0x0E (a 2) ^^^ gfMul 0x0B (a 3) ∧
        regByte t.stateReg 3 c = gfMul 0x0B (a 0) ^^^ gfMul 0x0D (a 1) ^^^ gfMul 0x09 (a 2) ^^^ gfMul 0x0E (a 3))

/-- ADD_ROUND_KEY, for every ROUND the word can carry (0..15). With a schedule: for ROUND ≤ NR byte j of STATE word c is XORed with byte j of RK[4·ROUND + c], RK only
read; for a greater ROUND it completes with BAD_ROUND, with no schedule with NO_KEY, and STATE stays (R153, R154, R218). -/
def Obligations.AddRoundKeyResult : Prop :=
  (∀ r : Nat, r ≤ 15 → decode (0x00000016 ||| BitVec.ofNat 32 r <<< 8) = .ok (.addRoundKey r)) ∧
  (∀ (s : State) (ks : KeySize) (round : Nat), s.rkInfo = some ks → round ≤ 15 →
    (round ≤ rkNr s → ∃ t, exec (.addRoundKey round) s = .next t ∧
      t = { s with stateReg := t.stateReg, err := .ok, latched := none, done := true } ∧
      ∀ j c : Fin 4, regByte t.stateReg j c =
        regByte s.stateReg j c ^^^ (s.rk[4 * round + c.val]?.getD 0).extractLsb' (24 - 8 * j.val) 8) ∧
    (rkNr s < round →
      exec (.addRoundKey round) s = .next { s with err := .badRound, latched := none, done := true })) ∧
  ∀ (s : State) (round : Nat), s.rkInfo = none → round ≤ 15 →
    exec (.addRoundKey round) s = .next { s with err := .noKey, latched := none, done := true }

/-- Each inverse state command undoes its forward one and the other way round, in every state, and ADD_ROUND_KEY with the
same round undoes itself (R142 to R154). -/
def Obligations.InverseStateCommandsUndo : Prop :=
  (∀ p ∈ [(Instr.subBytes, Instr.invSubBytes), (.invSubBytes, .subBytes), (.shiftRows, .invShiftRows),
      (.invShiftRows, .shiftRows), (.mixColumns, .invMixColumns), (.invMixColumns, .mixColumns)],
    ∀ s : State, ∃ t, execAll [p.1, p.2] s = .next t ∧ t.stateReg = s.stateReg) ∧
  ∀ (s : State) (ks : KeySize) (round : Nat), s.rkInfo = some ks → round ≤ KeySize.nr ks →
    ∃ t, execAll [.addRoundKey round, .addRoundKey round] s = .next t ∧ t.stateReg = s.stateReg

/-! ## Key schedule and block cipher (43, 44) -/

/-- KEY_EXPAND with KEYLEN 16, 24 or 32: RK0.. are the key words, then the recurrence of R161 word by word, then 0 up to
RK59, and RKINFO says so; any other KEYLEN, all 32 bits compared, completes with INVALID_KEY and leaves RK and RKINFO
(R160, R161, R162, R212). -/
def Obligations.KeyExpandResult : Prop :=
  decode 0x00000020 = .ok .keyExpand ∧
  (∀ (s : State), ∀ p ∈ [((0x10 : Word), 4, 10), (0x18, 6, 12), (0x20, 8, 14)], s.keylen = p.1 →
    ∃ t, exec .keyExpand s = .next t ∧
      t = { s with rk := t.rk, rkInfo := t.rkInfo, err := .ok, latched := none, done := true } ∧
      rkValid t = true ∧ rkNk t = p.2.1 ∧ rkNr t = p.2.2 ∧
      let rk := fun i : Nat => t.rk[i]?.getD 0
      let subw := fun v : Word => packWord ⟨sbox (v.extractLsb' 24 8), sbox (v.extractLsb' 16 8), sbox (v.extractLsb' 8 8),
        sbox (v.extractLsb' 0 8)⟩
      (∀ i, i < p.2.1 → rk i = s.key[i]?.getD 0) ∧
      (∀ i, p.2.1 ≤ i → i < 4 * (p.2.2 + 1) → rk i = rk (i - p.2.1) ^^^
        (if i % p.2.1 = 0 then
          subw (rk (i - 1) <<< 8 ||| rk (i - 1) >>> 24) ^^^
            (([0x01, 0x02, 0x04, 0x08, 0x10, 0x20, 0x40, 0x80, 0x1B, 0x36] : List Word).getD (i / p.2.1 - 1) 0) <<< 24
         else if p.2.1 > 6 ∧ i % p.2.1 = 4 then subw (rk (i - 1))
         else rk (i - 1))) ∧
      ∀ i, 4 * (p.2.2 + 1) ≤ i → i < 60 → rk i = 0) ∧
  ∀ s : State, s.keylen ≠ 0x10 → s.keylen ≠ 0x18 → s.keylen ≠ 0x20 →
    exec .keyExpand s = .next { s with err := .invalidKey, latched := none, done := true }

/-- ENCRYPT_BLOCK and DECRYPT_BLOCK with a schedule: BLK_OUT takes Cipher or InvCipher of BLK_IN under RK and NR, and
nothing else but ERR, BUSY and DONE changes; with no schedule, NO_KEY (R173, R174). -/
def Obligations.BlockCommandsResult : Prop :=
  decode 0x00000021 = .ok .encryptBlock ∧ decode 0x00000022 = .ok .decryptBlock ∧
  (∀ (s : State) (ks : KeySize), s.rkInfo = some ks →
    exec .encryptBlock s = .next { s with
      blkOut := regOfBlock (cipher (blockOfReg s.blkIn) s.rk (rkNr s)), err := .ok, latched := none, done := true } ∧
    exec .decryptBlock s = .next { s with
      blkOut := regOfBlock (invCipher (blockOfReg s.blkIn) s.rk (rkNr s)), err := .ok, latched := none, done := true }) ∧
  ∀ s : State, s.rkInfo = none →
    exec .encryptBlock s = .next { s with err := .noKey, latched := none, done := true } ∧
    exec .decryptBlock s = .next { s with err := .noKey, latched := none, done := true }

/-- Driving the cipher one transform at a time on STATE, with ADD_ROUND_KEY at each round as R170 says, is the same
computation as ENCRYPT_BLOCK, for every key size, schedule and block, and every one of those commands completes with OK
(R232, R170). -/
def Obligations.RoundsByHandEqualEncrypt : Prop :=
  ∀ (s : State) (ks : KeySize), s.rkInfo = some ks → s.stateReg = s.blkIn →
    (∀ n, 0 < n → n ≤ (roundCommands ks).length →
      ∃ t, execAll ((roundCommands ks).take n) s = .next t ∧ t.err = .ok) ∧
    ∃ t u, execAll (roundCommands ks) s = .next t ∧ exec .encryptBlock s = .next u ∧ t.stateReg = u.blkOut

/-- DECRYPT_BLOCK run on the output of ENCRYPT_BLOCK under the same schedule returns the block, and the other way round, for
every key size, schedule and block (R171, R174). -/
def Obligations.DecryptUndoesEncrypt : Prop :=
  ∀ (s : State) (ks : KeySize), s.rkInfo = some ks →
    (∃ t u, exec .encryptBlock s = .next t ∧ exec .decryptBlock { t with blkIn := t.blkOut } = .next u ∧
      u.blkOut = s.blkIn) ∧
    ∃ t u, exec .decryptBlock s = .next t ∧ exec .encryptBlock { t with blkIn := t.blkOut } = .next u ∧
      u.blkOut = s.blkIn

/-- The equivalent form of InvCipher, with InvMixColumn on the round keys 1 .. Nr-1 only, gives the same result for every
block, schedule and key size (R172). -/
def Obligations.EquivalentInverseAgrees : Prop :=
  ∀ (b : Block) (w : Vector Word 60) (ks : KeySize),
    equivalentInvCipher b w (KeySize.nr ks) = invCipher b w (KeySize.nr ks)

/-! ## Modes (45, 46) -/

/-- CBC_ENCRYPT: OUT takes the IV and then, block by block, Cipher of the padded message block XOR the block before it in
OUT; OUT_LEN its length; the pad is k bytes k with k = 16 - (L mod 16) (R180, R181, R183, R185). -/
def Obligations.CbcEncryptResult : Prop :=
  decode 0x00000030 = .ok .cbcEncrypt ∧
  ∀ (s : State) (ks : KeySize) (m : List Byte), s.rkInfo = some ks → s.inLen.toNat = m.length →
    m.length + 32 - m.length % 16 ≤ s.bufBytes → bytesAt s inBase m →
    let k := 16 - m.length % 16
    let p := m ++ List.replicate k (BitVec.ofNat 8 k)
    ∃ (t : State) (out : List Byte), exec .cbcEncrypt s = .next t ∧
      t = { s with mem := t.mem, outLen := t.outLen, err := .ok, latched := none, done := true } ∧
      out.length = m.length + 32 - m.length % 16 ∧ t.outLen = BitVec.ofNat 32 out.length ∧ bytesAt t outBase out ∧
      (∀ a, a < outBase ∨ outBase + out.length ≤ a → byteAt t a = byteAt s a) ∧
      blockOfBytes out = blockOfReg s.iv ∧
      ∀ j, j < m.length / 16 + 1 → blockOfBytes (out.drop (16 * (j + 1))) =
        cipher (xorBlock (blockOfBytes (p.drop (16 * j))) (blockOfBytes (out.drop (16 * j)))) s.rk (KeySize.nr ks)

/-- CBC_DECRYPT of an accepted length: with p the padded plaintext, block j of which is InvCipher of block j+1 of IN XOR
block j of IN, and k its last byte, OUT takes p and OUT_LEN is IN_LEN - 16 - k when 1 ≤ k ≤ 16, and otherwise it completes
with PADDING_ERROR and nothing is written (R182, R184, R215). -/
def Obligations.CbcDecryptResult : Prop :=
  decode 0x00000031 = .ok .cbcDecrypt ∧
  ∀ (s : State) (ks : KeySize) (d : List Byte), s.rkInfo = some ks → s.inLen.toNat = d.length →
    d.length ≤ s.bufBytes → d.length % 16 = 0 → 16 < d.length → bytesAt s inBase d →
    ∃ (p : List Byte) (k : Byte), p.length = d.length - 16 ∧ p[d.length - 17]? = some k ∧
      (∀ j, j < d.length / 16 - 1 → blockOfBytes (p.drop (16 * j)) =
        xorBlock (invCipher (blockOfBytes (d.drop (16 * (j + 1)))) s.rk (KeySize.nr ks)) (blockOfBytes (d.drop (16 * j)))) ∧
      if 1 ≤ k.toNat ∧ k.toNat ≤ 16 then
        ∃ t, exec .cbcDecrypt s = .next t ∧
          t = { s with mem := t.mem, outLen := t.outLen, err := .ok, latched := none, done := true } ∧
          t.outLen = BitVec.ofNat 32 (d.length - 16 - k.toNat) ∧ bytesAt t outBase p ∧
          ∀ a, a < outBase ∨ outBase + (d.length - 16) ≤ a → byteAt t a = byteAt s a
      else exec .cbcDecrypt s = .next { s with err := .paddingError, latched := none, done := true }

/-- The CBC round trip: CBC_DECRYPT of the OUT of CBC_ENCRYPT, copied into IN with its length, under the same schedule,
returns the message and its length, for every message that fits, every IV, schedule and key size (R185). -/
def Obligations.CbcRoundTrip : Prop :=
  ∀ (s : State) (ks : KeySize) (m : List Byte), s.rkInfo = some ks → Config.bufBytesOk s.bufBytes →
    s.inLen.toNat = m.length → m.length + 32 - m.length % 16 ≤ s.bufBytes → bytesAt s inBase m →
    ∃ t, exec .cbcEncrypt s = .next t ∧ ∀ u : State, u.rkInfo = some ks → u.rk = s.rk → u.bufBytes = s.bufBytes →
      u.inLen = t.outLen → (∀ k, k < t.outLen.toNat → byteAt u (inBase + k) = byteAt t (outBase + k)) →
      ∃ v, exec .cbcDecrypt u = .next v ∧ v.err = .ok ∧ v.outLen.toNat = m.length ∧ bytesAt v outBase m

/-- CTR_INCREMENT: BLK_OUT is BLK_IN plus 1 as a big-endian number modulo 2^128, BLK_IN stays (R190, R192). -/
def Obligations.CtrIncrementResult : Prop :=
  decode 0x00000034 = .ok .ctrIncrement ∧
  ∀ s : State, ∃ t, exec .ctrIncrement s = .next t ∧
    t = { s with blkOut := t.blkOut, err := .ok, latched := none, done := true } ∧
    blockValue (blockOfReg t.blkOut) = (blockValue (blockOfReg s.blkIn) + 1) % 2 ^ 128

/-- CTR_ENCRYPT: OUT takes the IV and then, byte by byte, message byte k XOR byte k mod 16 of Cipher of the IV incremented
k div 16 times; OUT_LEN is IN_LEN + 16 (R191, R193). -/
def Obligations.CtrEncryptResult : Prop :=
  decode 0x00000032 = .ok .ctrEncrypt ∧
  ∀ (s : State) (ks : KeySize) (m : List Byte), s.rkInfo = some ks → s.inLen.toNat = m.length →
    m.length + 16 ≤ s.bufBytes → bytesAt s inBase m →
    ∃ (t : State) (out : List Byte), exec .ctrEncrypt s = .next t ∧
      t = { s with mem := t.mem, outLen := BitVec.ofNat 32 (m.length + 16), err := .ok, latched := none, done := true } ∧
      out.length = m.length ∧ bytesAt t outBase (blockBytes (blockOfReg s.iv) ++ out) ∧
      (∀ a, a < outBase ∨ outBase + (m.length + 16) ≤ a → byteAt t a = byteAt s a) ∧
      ∀ k, k < m.length → out.getD k 0 = m.getD k 0 ^^^
        (blockBytes (cipher (inc128^[k / 16] (blockOfReg s.iv)) s.rk (KeySize.nr ks))).getD (k % 16) 0

/-- CTR_DECRYPT of an accepted length: the IV is the first 16 bytes of IN, and byte k of OUT is byte 16 + k of IN XOR byte
k mod 16 of Cipher of that IV incremented k div 16 times; OUT_LEN is IN_LEN - 16 (R191, R194). -/
def Obligations.CtrDecryptResult : Prop :=
  decode 0x00000033 = .ok .ctrDecrypt ∧
  ∀ (s : State) (ks : KeySize) (d : List Byte), s.rkInfo = some ks → s.inLen.toNat = d.length →
    d.length ≤ s.bufBytes → 16 ≤ d.length → bytesAt s inBase d →
    ∃ (t : State) (out : List Byte), exec .ctrDecrypt s = .next t ∧
      t = { s with mem := t.mem, outLen := BitVec.ofNat 32 (d.length - 16), err := .ok, latched := none, done := true } ∧
      out.length = d.length - 16 ∧ bytesAt t outBase out ∧
      (∀ a, a < outBase ∨ outBase + (d.length - 16) ≤ a → byteAt t a = byteAt s a) ∧
      ∀ k, k < d.length - 16 → out.getD k 0 = d.getD (16 + k) 0 ^^^
        (blockBytes (cipher (inc128^[k / 16] (blockOfBytes d)) s.rk (KeySize.nr ks))).getD (k % 16) 0

/-- The CTR round trip: CTR_DECRYPT of the OUT of CTR_ENCRYPT, copied into IN with its length, under the same schedule,
returns the message and its length, for every message that fits, every IV, schedule and key size (R191, R194). -/
def Obligations.CtrRoundTrip : Prop :=
  ∀ (s : State) (ks : KeySize) (m : List Byte), s.rkInfo = some ks → Config.bufBytesOk s.bufBytes →
    s.inLen.toNat = m.length → m.length + 16 ≤ s.bufBytes → bytesAt s inBase m →
    ∃ t, exec .ctrEncrypt s = .next t ∧ ∀ u : State, u.rkInfo = some ks → u.rk = s.rk → u.bufBytes = s.bufBytes →
      u.inLen = t.outLen → (∀ k, k < t.outLen.toNat → byteAt u (inBase + k) = byteAt t (outBase + k)) →
      ∃ v, exec .ctrDecrypt u = .next v ∧ v.err = .ok ∧ v.outLen.toNat = m.length ∧ bytesAt v outBase m

/-- A transfer at a register's offset, by number, reaches the state that bears its name, while the engine is idle: a write of
a read-write register or IN word stores there and nowhere else (of memory, in the word's four bytes alone), and a read of a register returns what stands there
(R20, R32 to R45, R63). -/
def Obligations.TransfersReachTheirRegister : Prop :=
  ∀ (s : State) (v : Word), State.busy s = false → Config.bufBytesOk s.bufBytes →
    (hostWrite 0x020 v 0b1111 s = { s with opa := v, resp := some .okayWrite } ∧
      hostWrite 0x024 v 0b1111 s = { s with opb := v, resp := some .okayWrite } ∧
      hostWrite 0x030 v 0b1111 s = { s with keylen := v, resp := some .okayWrite } ∧
      hostWrite 0x038 v 0b1111 s = { s with inLen := v, resp := some .okayWrite }) ∧
    (∀ i : Fin 8, hostWrite (BitVec.ofNat 14 (0x040 + 4 * i.val)) v 0b1111 s =
      { s with key := s.key.set i v, resp := some .okayWrite }) ∧
    (∀ i : Fin 4,
      hostWrite (BitVec.ofNat 14 (0x060 + 4 * i.val)) v 0b1111 s =
        { s with iv := Quad.set s.iv i v, resp := some .okayWrite } ∧
      hostWrite (BitVec.ofNat 14 (0x070 + 4 * i.val)) v 0b1111 s =
        { s with stateReg := Quad.set s.stateReg i v, resp := some .okayWrite } ∧
      hostWrite (BitVec.ofNat 14 (0x080 + 4 * i.val)) v 0b1111 s =
        { s with blkIn := Quad.set s.blkIn i v, resp := some .okayWrite }) ∧
    (∀ a : Nat, a % 4 = 0 → a < s.bufBytes → ∃ t, hostWrite (BitVec.ofNat 14 (0x1000 + a)) v 0b1111 s = t ∧
      t = { s with mem := t.mem, resp := some .okayWrite } ∧
      (∀ k : Fin 4, byteAt t (0x1000 + a + k.val) = some (v.extractLsb' (24 - 8 * k.val) 8)) ∧
      ∀ b : Nat, b < 0x1000 + a ∨ 0x1000 + a + 4 ≤ b → byteAt t b = byteAt s b) ∧
    (∀ p ∈ ([(0x020, s.opa), (0x024, s.opb), (0x028, s.res), (0x030, s.keylen), (0x034, rkInfoWord s), (0x038, s.inLen),
        (0x03C, s.outLen)] : List (Offset × Word)),
      hostRead p.1 s = .ok (p.2, { s with resp := some (.okayRead p.2) })) ∧
    (∀ i : Fin 8, hostRead (BitVec.ofNat 14 (0x040 + 4 * i.val)) s =
      .ok (s.key[i], { s with resp := some (.okayRead s.key[i]) })) ∧
    (∀ i : Fin 60, hostRead (BitVec.ofNat 14 (0x100 + 4 * i.val)) s =
      .ok (s.rk[i], { s with resp := some (.okayRead s.rk[i]) })) ∧
    ∀ (i : Fin 4), ∀ p ∈ ([(0x060, s.iv), (0x070, s.stateReg), (0x080, s.blkIn), (0x090, s.blkOut)] : List (Nat × Quad Word)),
      hostRead (BitVec.ofNat 14 (p.1 + 4 * i.val)) s =
        .ok (Quad.get p.2 i, { s with resp := some (.okayRead (Quad.get p.2 i)) })
end

