-- ==== Sys2Proof/Laws/State.lean ====
section
/-! SUPPORT. One lemma per field per update of the state, true by rfl, so that no later proof unfolds a record update. -/

namespace Sys2Proof.Machine

variable (s : State)

/-! setRes -/
@[simp] theorem setRes_bufBytes (v : Word) : (setRes v s).bufBytes = s.bufBytes := rfl
@[simp] theorem setRes_ie (v : Word) : (setRes v s).ie = s.ie := rfl
@[simp] theorem setRes_done (v : Word) : (setRes v s).done = s.done := rfl
@[simp] theorem setRes_ovr (v : Word) : (setRes v s).ovr = s.ovr := rfl
@[simp] theorem setRes_err (v : Word) : (setRes v s).err = s.err := rfl
@[simp] theorem setRes_latched (v : Word) : (setRes v s).latched = s.latched := rfl
@[simp] theorem setRes_opa (v : Word) : (setRes v s).opa = s.opa := rfl
@[simp] theorem setRes_opb (v : Word) : (setRes v s).opb = s.opb := rfl
@[simp] theorem setRes_res (v : Word) : (setRes v s).res = v := rfl
@[simp] theorem setRes_keylen (v : Word) : (setRes v s).keylen = s.keylen := rfl
@[simp] theorem setRes_rkInfo (v : Word) : (setRes v s).rkInfo = s.rkInfo := rfl
@[simp] theorem setRes_inLen (v : Word) : (setRes v s).inLen = s.inLen := rfl
@[simp] theorem setRes_outLen (v : Word) : (setRes v s).outLen = s.outLen := rfl
@[simp] theorem setRes_key (v : Word) : (setRes v s).key = s.key := rfl
@[simp] theorem setRes_iv (v : Word) : (setRes v s).iv = s.iv := rfl
@[simp] theorem setRes_stateReg (v : Word) : (setRes v s).stateReg = s.stateReg := rfl
@[simp] theorem setRes_blkIn (v : Word) : (setRes v s).blkIn = s.blkIn := rfl
@[simp] theorem setRes_blkOut (v : Word) : (setRes v s).blkOut = s.blkOut := rfl
@[simp] theorem setRes_rk (v : Word) : (setRes v s).rk = s.rk := rfl
@[simp] theorem setRes_mem (v : Word) : (setRes v s).mem = s.mem := rfl
@[simp] theorem setRes_resp (v : Word) : (setRes v s).resp = s.resp := rfl
@[simp] theorem setRes_program (v : Word) : (setRes v s).program = s.program := rfl
@[simp] theorem setRes_pos (v : Word) : (setRes v s).pos = s.pos := rfl
@[simp] theorem setRes_lastReads (v : Word) : (setRes v s).lastReads = s.lastReads := rfl
@[simp] theorem setRes_held (v : Word) : (setRes v s).held = s.held := rfl
@[simp] theorem setRes_hostFault (v : Word) : (setRes v s).hostFault = s.hostFault := rfl
@[simp] theorem setRes_turns (v : Word) : (setRes v s).turns = s.turns := rfl
@[simp] theorem setRes_draws (v : Word) : (setRes v s).draws = s.draws := rfl

/-! setResByte -/
@[simp] theorem setResByte_bufBytes (b : Byte) : (setResByte b s).bufBytes = s.bufBytes := rfl
@[simp] theorem setResByte_ie (b : Byte) : (setResByte b s).ie = s.ie := rfl
@[simp] theorem setResByte_done (b : Byte) : (setResByte b s).done = s.done := rfl
@[simp] theorem setResByte_ovr (b : Byte) : (setResByte b s).ovr = s.ovr := rfl
@[simp] theorem setResByte_err (b : Byte) : (setResByte b s).err = s.err := rfl
@[simp] theorem setResByte_latched (b : Byte) : (setResByte b s).latched = s.latched := rfl
@[simp] theorem setResByte_opa (b : Byte) : (setResByte b s).opa = s.opa := rfl
@[simp] theorem setResByte_opb (b : Byte) : (setResByte b s).opb = s.opb := rfl
@[simp] theorem setResByte_res (b : Byte) : (setResByte b s).res = b.setWidth 32 := rfl
@[simp] theorem setResByte_keylen (b : Byte) : (setResByte b s).keylen = s.keylen := rfl
@[simp] theorem setResByte_rkInfo (b : Byte) : (setResByte b s).rkInfo = s.rkInfo := rfl
@[simp] theorem setResByte_inLen (b : Byte) : (setResByte b s).inLen = s.inLen := rfl
@[simp] theorem setResByte_outLen (b : Byte) : (setResByte b s).outLen = s.outLen := rfl
@[simp] theorem setResByte_key (b : Byte) : (setResByte b s).key = s.key := rfl
@[simp] theorem setResByte_iv (b : Byte) : (setResByte b s).iv = s.iv := rfl
@[simp] theorem setResByte_stateReg (b : Byte) : (setResByte b s).stateReg = s.stateReg := rfl
@[simp] theorem setResByte_blkIn (b : Byte) : (setResByte b s).blkIn = s.blkIn := rfl
@[simp] theorem setResByte_blkOut (b : Byte) : (setResByte b s).blkOut = s.blkOut := rfl
@[simp] theorem setResByte_rk (b : Byte) : (setResByte b s).rk = s.rk := rfl
@[simp] theorem setResByte_mem (b : Byte) : (setResByte b s).mem = s.mem := rfl
@[simp] theorem setResByte_resp (b : Byte) : (setResByte b s).resp = s.resp := rfl
@[simp] theorem setResByte_program (b : Byte) : (setResByte b s).program = s.program := rfl
@[simp] theorem setResByte_pos (b : Byte) : (setResByte b s).pos = s.pos := rfl
@[simp] theorem setResByte_lastReads (b : Byte) : (setResByte b s).lastReads = s.lastReads := rfl
@[simp] theorem setResByte_held (b : Byte) : (setResByte b s).held = s.held := rfl
@[simp] theorem setResByte_hostFault (b : Byte) : (setResByte b s).hostFault = s.hostFault := rfl
@[simp] theorem setResByte_turns (b : Byte) : (setResByte b s).turns = s.turns := rfl
@[simp] theorem setResByte_draws (b : Byte) : (setResByte b s).draws = s.draws := rfl

/-! setStateBlock -/
@[simp] theorem setStateBlock_bufBytes (b : Block) : (setStateBlock b s).bufBytes = s.bufBytes := rfl
@[simp] theorem setStateBlock_ie (b : Block) : (setStateBlock b s).ie = s.ie := rfl
@[simp] theorem setStateBlock_done (b : Block) : (setStateBlock b s).done = s.done := rfl
@[simp] theorem setStateBlock_ovr (b : Block) : (setStateBlock b s).ovr = s.ovr := rfl
@[simp] theorem setStateBlock_err (b : Block) : (setStateBlock b s).err = s.err := rfl
@[simp] theorem setStateBlock_latched (b : Block) : (setStateBlock b s).latched = s.latched := rfl
@[simp] theorem setStateBlock_opa (b : Block) : (setStateBlock b s).opa = s.opa := rfl
@[simp] theorem setStateBlock_opb (b : Block) : (setStateBlock b s).opb = s.opb := rfl
@[simp] theorem setStateBlock_res (b : Block) : (setStateBlock b s).res = s.res := rfl
@[simp] theorem setStateBlock_keylen (b : Block) : (setStateBlock b s).keylen = s.keylen := rfl
@[simp] theorem setStateBlock_rkInfo (b : Block) : (setStateBlock b s).rkInfo = s.rkInfo := rfl
@[simp] theorem setStateBlock_inLen (b : Block) : (setStateBlock b s).inLen = s.inLen := rfl
@[simp] theorem setStateBlock_outLen (b : Block) : (setStateBlock b s).outLen = s.outLen := rfl
@[simp] theorem setStateBlock_key (b : Block) : (setStateBlock b s).key = s.key := rfl
@[simp] theorem setStateBlock_iv (b : Block) : (setStateBlock b s).iv = s.iv := rfl
@[simp] theorem setStateBlock_stateReg (b : Block) : (setStateBlock b s).stateReg = regOfBlock b := rfl
@[simp] theorem setStateBlock_blkIn (b : Block) : (setStateBlock b s).blkIn = s.blkIn := rfl
@[simp] theorem setStateBlock_blkOut (b : Block) : (setStateBlock b s).blkOut = s.blkOut := rfl
@[simp] theorem setStateBlock_rk (b : Block) : (setStateBlock b s).rk = s.rk := rfl
@[simp] theorem setStateBlock_mem (b : Block) : (setStateBlock b s).mem = s.mem := rfl
@[simp] theorem setStateBlock_resp (b : Block) : (setStateBlock b s).resp = s.resp := rfl
@[simp] theorem setStateBlock_program (b : Block) : (setStateBlock b s).program = s.program := rfl
@[simp] theorem setStateBlock_pos (b : Block) : (setStateBlock b s).pos = s.pos := rfl
@[simp] theorem setStateBlock_lastReads (b : Block) : (setStateBlock b s).lastReads = s.lastReads := rfl
@[simp] theorem setStateBlock_held (b : Block) : (setStateBlock b s).held = s.held := rfl
@[simp] theorem setStateBlock_hostFault (b : Block) : (setStateBlock b s).hostFault = s.hostFault := rfl
@[simp] theorem setStateBlock_turns (b : Block) : (setStateBlock b s).turns = s.turns := rfl
@[simp] theorem setStateBlock_draws (b : Block) : (setStateBlock b s).draws = s.draws := rfl

/-! setBlkOut -/
@[simp] theorem setBlkOut_bufBytes (b : Block) : (setBlkOut b s).bufBytes = s.bufBytes := rfl
@[simp] theorem setBlkOut_ie (b : Block) : (setBlkOut b s).ie = s.ie := rfl
@[simp] theorem setBlkOut_done (b : Block) : (setBlkOut b s).done = s.done := rfl
@[simp] theorem setBlkOut_ovr (b : Block) : (setBlkOut b s).ovr = s.ovr := rfl
@[simp] theorem setBlkOut_err (b : Block) : (setBlkOut b s).err = s.err := rfl
@[simp] theorem setBlkOut_latched (b : Block) : (setBlkOut b s).latched = s.latched := rfl
@[simp] theorem setBlkOut_opa (b : Block) : (setBlkOut b s).opa = s.opa := rfl
@[simp] theorem setBlkOut_opb (b : Block) : (setBlkOut b s).opb = s.opb := rfl
@[simp] theorem setBlkOut_res (b : Block) : (setBlkOut b s).res = s.res := rfl
@[simp] theorem setBlkOut_keylen (b : Block) : (setBlkOut b s).keylen = s.keylen := rfl
@[simp] theorem setBlkOut_rkInfo (b : Block) : (setBlkOut b s).rkInfo = s.rkInfo := rfl
@[simp] theorem setBlkOut_inLen (b : Block) : (setBlkOut b s).inLen = s.inLen := rfl
@[simp] theorem setBlkOut_outLen (b : Block) : (setBlkOut b s).outLen = s.outLen := rfl
@[simp] theorem setBlkOut_key (b : Block) : (setBlkOut b s).key = s.key := rfl
@[simp] theorem setBlkOut_iv (b : Block) : (setBlkOut b s).iv = s.iv := rfl
@[simp] theorem setBlkOut_stateReg (b : Block) : (setBlkOut b s).stateReg = s.stateReg := rfl
@[simp] theorem setBlkOut_blkIn (b : Block) : (setBlkOut b s).blkIn = s.blkIn := rfl
@[simp] theorem setBlkOut_blkOut (b : Block) : (setBlkOut b s).blkOut = regOfBlock b := rfl
@[simp] theorem setBlkOut_rk (b : Block) : (setBlkOut b s).rk = s.rk := rfl
@[simp] theorem setBlkOut_mem (b : Block) : (setBlkOut b s).mem = s.mem := rfl
@[simp] theorem setBlkOut_resp (b : Block) : (setBlkOut b s).resp = s.resp := rfl
@[simp] theorem setBlkOut_program (b : Block) : (setBlkOut b s).program = s.program := rfl
@[simp] theorem setBlkOut_pos (b : Block) : (setBlkOut b s).pos = s.pos := rfl
@[simp] theorem setBlkOut_lastReads (b : Block) : (setBlkOut b s).lastReads = s.lastReads := rfl
@[simp] theorem setBlkOut_held (b : Block) : (setBlkOut b s).held = s.held := rfl
@[simp] theorem setBlkOut_hostFault (b : Block) : (setBlkOut b s).hostFault = s.hostFault := rfl
@[simp] theorem setBlkOut_turns (b : Block) : (setBlkOut b s).turns = s.turns := rfl
@[simp] theorem setBlkOut_draws (b : Block) : (setBlkOut b s).draws = s.draws := rfl

/-! setSchedule -/
@[simp] theorem setSchedule_bufBytes (w : Vector Word 60) (ks : KeySize) : (setSchedule w ks s).bufBytes = s.bufBytes := rfl
@[simp] theorem setSchedule_ie (w : Vector Word 60) (ks : KeySize) : (setSchedule w ks s).ie = s.ie := rfl
@[simp] theorem setSchedule_done (w : Vector Word 60) (ks : KeySize) : (setSchedule w ks s).done = s.done := rfl
@[simp] theorem setSchedule_ovr (w : Vector Word 60) (ks : KeySize) : (setSchedule w ks s).ovr = s.ovr := rfl
@[simp] theorem setSchedule_err (w : Vector Word 60) (ks : KeySize) : (setSchedule w ks s).err = s.err := rfl
@[simp] theorem setSchedule_latched (w : Vector Word 60) (ks : KeySize) : (setSchedule w ks s).latched = s.latched := rfl
@[simp] theorem setSchedule_opa (w : Vector Word 60) (ks : KeySize) : (setSchedule w ks s).opa = s.opa := rfl
@[simp] theorem setSchedule_opb (w : Vector Word 60) (ks : KeySize) : (setSchedule w ks s).opb = s.opb := rfl
@[simp] theorem setSchedule_res (w : Vector Word 60) (ks : KeySize) : (setSchedule w ks s).res = s.res := rfl
@[simp] theorem setSchedule_keylen (w : Vector Word 60) (ks : KeySize) : (setSchedule w ks s).keylen = s.keylen := rfl
@[simp] theorem setSchedule_rkInfo (w : Vector Word 60) (ks : KeySize) : (setSchedule w ks s).rkInfo = some ks := rfl
@[simp] theorem setSchedule_inLen (w : Vector Word 60) (ks : KeySize) : (setSchedule w ks s).inLen = s.inLen := rfl
@[simp] theorem setSchedule_outLen (w : Vector Word 60) (ks : KeySize) : (setSchedule w ks s).outLen = s.outLen := rfl
@[simp] theorem setSchedule_key (w : Vector Word 60) (ks : KeySize) : (setSchedule w ks s).key = s.key := rfl
@[simp] theorem setSchedule_iv (w : Vector Word 60) (ks : KeySize) : (setSchedule w ks s).iv = s.iv := rfl
@[simp] theorem setSchedule_stateReg (w : Vector Word 60) (ks : KeySize) : (setSchedule w ks s).stateReg = s.stateReg := rfl
@[simp] theorem setSchedule_blkIn (w : Vector Word 60) (ks : KeySize) : (setSchedule w ks s).blkIn = s.blkIn := rfl
@[simp] theorem setSchedule_blkOut (w : Vector Word 60) (ks : KeySize) : (setSchedule w ks s).blkOut = s.blkOut := rfl
@[simp] theorem setSchedule_rk (w : Vector Word 60) (ks : KeySize) : (setSchedule w ks s).rk = w := rfl
@[simp] theorem setSchedule_mem (w : Vector Word 60) (ks : KeySize) : (setSchedule w ks s).mem = s.mem := rfl
@[simp] theorem setSchedule_resp (w : Vector Word 60) (ks : KeySize) : (setSchedule w ks s).resp = s.resp := rfl
@[simp] theorem setSchedule_program (w : Vector Word 60) (ks : KeySize) : (setSchedule w ks s).program = s.program := rfl
@[simp] theorem setSchedule_pos (w : Vector Word 60) (ks : KeySize) : (setSchedule w ks s).pos = s.pos := rfl
@[simp] theorem setSchedule_lastReads (w : Vector Word 60) (ks : KeySize) : (setSchedule w ks s).lastReads = s.lastReads := rfl
@[simp] theorem setSchedule_held (w : Vector Word 60) (ks : KeySize) : (setSchedule w ks s).held = s.held := rfl
@[simp] theorem setSchedule_hostFault (w : Vector Word 60) (ks : KeySize) : (setSchedule w ks s).hostFault = s.hostFault := rfl
@[simp] theorem setSchedule_turns (w : Vector Word 60) (ks : KeySize) : (setSchedule w ks s).turns = s.turns := rfl
@[simp] theorem setSchedule_draws (w : Vector Word 60) (ks : KeySize) : (setSchedule w ks s).draws = s.draws := rfl

/-! writeOut -/
@[simp] theorem writeOut_bufBytes (out : List Byte) (n : Nat) : (writeOut out n s).bufBytes = s.bufBytes := rfl
@[simp] theorem writeOut_ie (out : List Byte) (n : Nat) : (writeOut out n s).ie = s.ie := rfl
@[simp] theorem writeOut_done (out : List Byte) (n : Nat) : (writeOut out n s).done = s.done := rfl
@[simp] theorem writeOut_ovr (out : List Byte) (n : Nat) : (writeOut out n s).ovr = s.ovr := rfl
@[simp] theorem writeOut_err (out : List Byte) (n : Nat) : (writeOut out n s).err = s.err := rfl
@[simp] theorem writeOut_latched (out : List Byte) (n : Nat) : (writeOut out n s).latched = s.latched := rfl
@[simp] theorem writeOut_opa (out : List Byte) (n : Nat) : (writeOut out n s).opa = s.opa := rfl
@[simp] theorem writeOut_opb (out : List Byte) (n : Nat) : (writeOut out n s).opb = s.opb := rfl
@[simp] theorem writeOut_res (out : List Byte) (n : Nat) : (writeOut out n s).res = s.res := rfl
@[simp] theorem writeOut_keylen (out : List Byte) (n : Nat) : (writeOut out n s).keylen = s.keylen := rfl
@[simp] theorem writeOut_rkInfo (out : List Byte) (n : Nat) : (writeOut out n s).rkInfo = s.rkInfo := rfl
@[simp] theorem writeOut_inLen (out : List Byte) (n : Nat) : (writeOut out n s).inLen = s.inLen := rfl
@[simp] theorem writeOut_outLen (out : List Byte) (n : Nat) : (writeOut out n s).outLen = BitVec.ofNat 32 n := rfl
@[simp] theorem writeOut_key (out : List Byte) (n : Nat) : (writeOut out n s).key = s.key := rfl
@[simp] theorem writeOut_iv (out : List Byte) (n : Nat) : (writeOut out n s).iv = s.iv := rfl
@[simp] theorem writeOut_stateReg (out : List Byte) (n : Nat) : (writeOut out n s).stateReg = s.stateReg := rfl
@[simp] theorem writeOut_blkIn (out : List Byte) (n : Nat) : (writeOut out n s).blkIn = s.blkIn := rfl
@[simp] theorem writeOut_blkOut (out : List Byte) (n : Nat) : (writeOut out n s).blkOut = s.blkOut := rfl
@[simp] theorem writeOut_rk (out : List Byte) (n : Nat) : (writeOut out n s).rk = s.rk := rfl
@[simp] theorem writeOut_mem (out : List Byte) (n : Nat) : (writeOut out n s).mem = memWrite outBase out s.mem := rfl
@[simp] theorem writeOut_resp (out : List Byte) (n : Nat) : (writeOut out n s).resp = s.resp := rfl
@[simp] theorem writeOut_program (out : List Byte) (n : Nat) : (writeOut out n s).program = s.program := rfl
@[simp] theorem writeOut_pos (out : List Byte) (n : Nat) : (writeOut out n s).pos = s.pos := rfl
@[simp] theorem writeOut_lastReads (out : List Byte) (n : Nat) : (writeOut out n s).lastReads = s.lastReads := rfl
@[simp] theorem writeOut_held (out : List Byte) (n : Nat) : (writeOut out n s).held = s.held := rfl
@[simp] theorem writeOut_hostFault (out : List Byte) (n : Nat) : (writeOut out n s).hostFault = s.hostFault := rfl
@[simp] theorem writeOut_turns (out : List Byte) (n : Nat) : (writeOut out n s).turns = s.turns := rfl
@[simp] theorem writeOut_draws (out : List Byte) (n : Nat) : (writeOut out n s).draws = s.draws := rfl

/-! finish -/
@[simp] theorem finish_bufBytes (c : ResultCode) : (finish c s).bufBytes = s.bufBytes := rfl
@[simp] theorem finish_ie (c : ResultCode) : (finish c s).ie = s.ie := rfl
@[simp] theorem finish_done (c : ResultCode) : (finish c s).done = true := rfl
@[simp] theorem finish_ovr (c : ResultCode) : (finish c s).ovr = s.ovr := rfl
@[simp] theorem finish_err (c : ResultCode) : (finish c s).err = c := rfl
@[simp] theorem finish_latched (c : ResultCode) : (finish c s).latched = none := rfl
@[simp] theorem finish_opa (c : ResultCode) : (finish c s).opa = s.opa := rfl
@[simp] theorem finish_opb (c : ResultCode) : (finish c s).opb = s.opb := rfl
@[simp] theorem finish_res (c : ResultCode) : (finish c s).res = s.res := rfl
@[simp] theorem finish_keylen (c : ResultCode) : (finish c s).keylen = s.keylen := rfl
@[simp] theorem finish_rkInfo (c : ResultCode) : (finish c s).rkInfo = s.rkInfo := rfl
@[simp] theorem finish_inLen (c : ResultCode) : (finish c s).inLen = s.inLen := rfl
@[simp] theorem finish_outLen (c : ResultCode) : (finish c s).outLen = s.outLen := rfl
@[simp] theorem finish_key (c : ResultCode) : (finish c s).key = s.key := rfl
@[simp] theorem finish_iv (c : ResultCode) : (finish c s).iv = s.iv := rfl
@[simp] theorem finish_stateReg (c : ResultCode) : (finish c s).stateReg = s.stateReg := rfl
@[simp] theorem finish_blkIn (c : ResultCode) : (finish c s).blkIn = s.blkIn := rfl
@[simp] theorem finish_blkOut (c : ResultCode) : (finish c s).blkOut = s.blkOut := rfl
@[simp] theorem finish_rk (c : ResultCode) : (finish c s).rk = s.rk := rfl
@[simp] theorem finish_mem (c : ResultCode) : (finish c s).mem = s.mem := rfl
@[simp] theorem finish_resp (c : ResultCode) : (finish c s).resp = s.resp := rfl
@[simp] theorem finish_program (c : ResultCode) : (finish c s).program = s.program := rfl
@[simp] theorem finish_pos (c : ResultCode) : (finish c s).pos = s.pos := rfl
@[simp] theorem finish_lastReads (c : ResultCode) : (finish c s).lastReads = s.lastReads := rfl
@[simp] theorem finish_held (c : ResultCode) : (finish c s).held = s.held := rfl
@[simp] theorem finish_hostFault (c : ResultCode) : (finish c s).hostFault = s.hostFault := rfl
@[simp] theorem finish_turns (c : ResultCode) : (finish c s).turns = s.turns := rfl
@[simp] theorem finish_draws (c : ResultCode) : (finish c s).draws = s.draws := rfl

/-! issue -/
@[simp] theorem issue_bufBytes (v : Word) : (issue v s).bufBytes = s.bufBytes := rfl
@[simp] theorem issue_ie (v : Word) : (issue v s).ie = s.ie := rfl
@[simp] theorem issue_done (v : Word) : (issue v s).done = false := rfl
@[simp] theorem issue_ovr (v : Word) : (issue v s).ovr = s.ovr := rfl
@[simp] theorem issue_err (v : Word) : (issue v s).err = s.err := rfl
@[simp] theorem issue_latched (v : Word) : (issue v s).latched = some v := rfl
@[simp] theorem issue_opa (v : Word) : (issue v s).opa = s.opa := rfl
@[simp] theorem issue_opb (v : Word) : (issue v s).opb = s.opb := rfl
@[simp] theorem issue_res (v : Word) : (issue v s).res = s.res := rfl
@[simp] theorem issue_keylen (v : Word) : (issue v s).keylen = s.keylen := rfl
@[simp] theorem issue_rkInfo (v : Word) : (issue v s).rkInfo = s.rkInfo := rfl
@[simp] theorem issue_inLen (v : Word) : (issue v s).inLen = s.inLen := rfl
@[simp] theorem issue_outLen (v : Word) : (issue v s).outLen = s.outLen := rfl
@[simp] theorem issue_key (v : Word) : (issue v s).key = s.key := rfl
@[simp] theorem issue_iv (v : Word) : (issue v s).iv = s.iv := rfl
@[simp] theorem issue_stateReg (v : Word) : (issue v s).stateReg = s.stateReg := rfl
@[simp] theorem issue_blkIn (v : Word) : (issue v s).blkIn = s.blkIn := rfl
@[simp] theorem issue_blkOut (v : Word) : (issue v s).blkOut = s.blkOut := rfl
@[simp] theorem issue_rk (v : Word) : (issue v s).rk = s.rk := rfl
@[simp] theorem issue_mem (v : Word) : (issue v s).mem = s.mem := rfl
@[simp] theorem issue_resp (v : Word) : (issue v s).resp = s.resp := rfl
@[simp] theorem issue_program (v : Word) : (issue v s).program = s.program := rfl
@[simp] theorem issue_pos (v : Word) : (issue v s).pos = s.pos := rfl
@[simp] theorem issue_lastReads (v : Word) : (issue v s).lastReads = s.lastReads := rfl
@[simp] theorem issue_held (v : Word) : (issue v s).held = s.held := rfl
@[simp] theorem issue_hostFault (v : Word) : (issue v s).hostFault = s.hostFault := rfl
@[simp] theorem issue_turns (v : Word) : (issue v s).turns = s.turns := rfl
@[simp] theorem issue_draws (v : Word) : (issue v s).draws = s.draws := rfl

/-! writeStatus -/
@[simp] theorem writeStatus_bufBytes (v : Word) : (writeStatus v s).bufBytes = s.bufBytes := rfl
@[simp] theorem writeStatus_ie (v : Word) : (writeStatus v s).ie = s.ie := rfl
@[simp] theorem writeStatus_done (v : Word) : (writeStatus v s).done = (if v.getLsbD 1 then false else s.done) := rfl
@[simp] theorem writeStatus_ovr (v : Word) : (writeStatus v s).ovr = (if v.getLsbD 2 then false else s.ovr) := rfl
@[simp] theorem writeStatus_err (v : Word) : (writeStatus v s).err = s.err := rfl
@[simp] theorem writeStatus_latched (v : Word) : (writeStatus v s).latched = s.latched := rfl
@[simp] theorem writeStatus_opa (v : Word) : (writeStatus v s).opa = s.opa := rfl
@[simp] theorem writeStatus_opb (v : Word) : (writeStatus v s).opb = s.opb := rfl
@[simp] theorem writeStatus_res (v : Word) : (writeStatus v s).res = s.res := rfl
@[simp] theorem writeStatus_keylen (v : Word) : (writeStatus v s).keylen = s.keylen := rfl
@[simp] theorem writeStatus_rkInfo (v : Word) : (writeStatus v s).rkInfo = s.rkInfo := rfl
@[simp] theorem writeStatus_inLen (v : Word) : (writeStatus v s).inLen = s.inLen := rfl
@[simp] theorem writeStatus_outLen (v : Word) : (writeStatus v s).outLen = s.outLen := rfl
@[simp] theorem writeStatus_key (v : Word) : (writeStatus v s).key = s.key := rfl
@[simp] theorem writeStatus_iv (v : Word) : (writeStatus v s).iv = s.iv := rfl
@[simp] theorem writeStatus_stateReg (v : Word) : (writeStatus v s).stateReg = s.stateReg := rfl
@[simp] theorem writeStatus_blkIn (v : Word) : (writeStatus v s).blkIn = s.blkIn := rfl
@[simp] theorem writeStatus_blkOut (v : Word) : (writeStatus v s).blkOut = s.blkOut := rfl
@[simp] theorem writeStatus_rk (v : Word) : (writeStatus v s).rk = s.rk := rfl
@[simp] theorem writeStatus_mem (v : Word) : (writeStatus v s).mem = s.mem := rfl
@[simp] theorem writeStatus_resp (v : Word) : (writeStatus v s).resp = s.resp := rfl
@[simp] theorem writeStatus_program (v : Word) : (writeStatus v s).program = s.program := rfl
@[simp] theorem writeStatus_pos (v : Word) : (writeStatus v s).pos = s.pos := rfl
@[simp] theorem writeStatus_lastReads (v : Word) : (writeStatus v s).lastReads = s.lastReads := rfl
@[simp] theorem writeStatus_held (v : Word) : (writeStatus v s).held = s.held := rfl
@[simp] theorem writeStatus_hostFault (v : Word) : (writeStatus v s).hostFault = s.hostFault := rfl
@[simp] theorem writeStatus_turns (v : Word) : (writeStatus v s).turns = s.turns := rfl
@[simp] theorem writeStatus_draws (v : Word) : (writeStatus v s).draws = s.draws := rfl

/-! writeCtrl -/
@[simp] theorem writeCtrl_bufBytes (v : Word) : (writeCtrl v s).bufBytes = s.bufBytes := rfl
@[simp] theorem writeCtrl_ie (v : Word) : (writeCtrl v s).ie = v.getLsbD 0 := rfl
@[simp] theorem writeCtrl_done (v : Word) : (writeCtrl v s).done = s.done := rfl
@[simp] theorem writeCtrl_ovr (v : Word) : (writeCtrl v s).ovr = s.ovr := rfl
@[simp] theorem writeCtrl_err (v : Word) : (writeCtrl v s).err = s.err := rfl
@[simp] theorem writeCtrl_latched (v : Word) : (writeCtrl v s).latched = s.latched := rfl
@[simp] theorem writeCtrl_opa (v : Word) : (writeCtrl v s).opa = s.opa := rfl
@[simp] theorem writeCtrl_opb (v : Word) : (writeCtrl v s).opb = s.opb := rfl
@[simp] theorem writeCtrl_res (v : Word) : (writeCtrl v s).res = s.res := rfl
@[simp] theorem writeCtrl_keylen (v : Word) : (writeCtrl v s).keylen = s.keylen := rfl
@[simp] theorem writeCtrl_rkInfo (v : Word) : (writeCtrl v s).rkInfo = s.rkInfo := rfl
@[simp] theorem writeCtrl_inLen (v : Word) : (writeCtrl v s).inLen = s.inLen := rfl
@[simp] theorem writeCtrl_outLen (v : Word) : (writeCtrl v s).outLen = s.outLen := rfl
@[simp] theorem writeCtrl_key (v : Word) : (writeCtrl v s).key = s.key := rfl
@[simp] theorem writeCtrl_iv (v : Word) : (writeCtrl v s).iv = s.iv := rfl
@[simp] theorem writeCtrl_stateReg (v : Word) : (writeCtrl v s).stateReg = s.stateReg := rfl
@[simp] theorem writeCtrl_blkIn (v : Word) : (writeCtrl v s).blkIn = s.blkIn := rfl
@[simp] theorem writeCtrl_blkOut (v : Word) : (writeCtrl v s).blkOut = s.blkOut := rfl
@[simp] theorem writeCtrl_rk (v : Word) : (writeCtrl v s).rk = s.rk := rfl
@[simp] theorem writeCtrl_mem (v : Word) : (writeCtrl v s).mem = s.mem := rfl
@[simp] theorem writeCtrl_resp (v : Word) : (writeCtrl v s).resp = s.resp := rfl
@[simp] theorem writeCtrl_program (v : Word) : (writeCtrl v s).program = s.program := rfl
@[simp] theorem writeCtrl_pos (v : Word) : (writeCtrl v s).pos = s.pos := rfl
@[simp] theorem writeCtrl_lastReads (v : Word) : (writeCtrl v s).lastReads = s.lastReads := rfl
@[simp] theorem writeCtrl_held (v : Word) : (writeCtrl v s).held = s.held := rfl
@[simp] theorem writeCtrl_hostFault (v : Word) : (writeCtrl v s).hostFault = s.hostFault := rfl
@[simp] theorem writeCtrl_turns (v : Word) : (writeCtrl v s).turns = s.turns := rfl
@[simp] theorem writeCtrl_draws (v : Word) : (writeCtrl v s).draws = s.draws := rfl

/-! setOverrun -/
@[simp] theorem setOverrun_bufBytes : (setOverrun s).bufBytes = s.bufBytes := rfl
@[simp] theorem setOverrun_ie : (setOverrun s).ie = s.ie := rfl
@[simp] theorem setOverrun_done : (setOverrun s).done = s.done := rfl
@[simp] theorem setOverrun_ovr : (setOverrun s).ovr = true := rfl
@[simp] theorem setOverrun_err : (setOverrun s).err = s.err := rfl
@[simp] theorem setOverrun_latched : (setOverrun s).latched = s.latched := rfl
@[simp] theorem setOverrun_opa : (setOverrun s).opa = s.opa := rfl
@[simp] theorem setOverrun_opb : (setOverrun s).opb = s.opb := rfl
@[simp] theorem setOverrun_res : (setOverrun s).res = s.res := rfl
@[simp] theorem setOverrun_keylen : (setOverrun s).keylen = s.keylen := rfl
@[simp] theorem setOverrun_rkInfo : (setOverrun s).rkInfo = s.rkInfo := rfl
@[simp] theorem setOverrun_inLen : (setOverrun s).inLen = s.inLen := rfl
@[simp] theorem setOverrun_outLen : (setOverrun s).outLen = s.outLen := rfl
@[simp] theorem setOverrun_key : (setOverrun s).key = s.key := rfl
@[simp] theorem setOverrun_iv : (setOverrun s).iv = s.iv := rfl
@[simp] theorem setOverrun_stateReg : (setOverrun s).stateReg = s.stateReg := rfl
@[simp] theorem setOverrun_blkIn : (setOverrun s).blkIn = s.blkIn := rfl
@[simp] theorem setOverrun_blkOut : (setOverrun s).blkOut = s.blkOut := rfl
@[simp] theorem setOverrun_rk : (setOverrun s).rk = s.rk := rfl
@[simp] theorem setOverrun_mem : (setOverrun s).mem = s.mem := rfl
@[simp] theorem setOverrun_resp : (setOverrun s).resp = s.resp := rfl
@[simp] theorem setOverrun_program : (setOverrun s).program = s.program := rfl
@[simp] theorem setOverrun_pos : (setOverrun s).pos = s.pos := rfl
@[simp] theorem setOverrun_lastReads : (setOverrun s).lastReads = s.lastReads := rfl
@[simp] theorem setOverrun_held : (setOverrun s).held = s.held := rfl
@[simp] theorem setOverrun_hostFault : (setOverrun s).hostFault = s.hostFault := rfl
@[simp] theorem setOverrun_turns : (setOverrun s).turns = s.turns := rfl
@[simp] theorem setOverrun_draws : (setOverrun s).draws = s.draws := rfl

/-! drawn -/
@[simp] theorem drawn_bufBytes : (drawn s).bufBytes = s.bufBytes := rfl
@[simp] theorem drawn_ie : (drawn s).ie = s.ie := rfl
@[simp] theorem drawn_done : (drawn s).done = s.done := rfl
@[simp] theorem drawn_ovr : (drawn s).ovr = s.ovr := rfl
@[simp] theorem drawn_err : (drawn s).err = s.err := rfl
@[simp] theorem drawn_latched : (drawn s).latched = s.latched := rfl
@[simp] theorem drawn_opa : (drawn s).opa = s.opa := rfl
@[simp] theorem drawn_opb : (drawn s).opb = s.opb := rfl
@[simp] theorem drawn_res : (drawn s).res = s.res := rfl
@[simp] theorem drawn_keylen : (drawn s).keylen = s.keylen := rfl
@[simp] theorem drawn_rkInfo : (drawn s).rkInfo = s.rkInfo := rfl
@[simp] theorem drawn_inLen : (drawn s).inLen = s.inLen := rfl
@[simp] theorem drawn_outLen : (drawn s).outLen = s.outLen := rfl
@[simp] theorem drawn_key : (drawn s).key = s.key := rfl
@[simp] theorem drawn_iv : (drawn s).iv = s.iv := rfl
@[simp] theorem drawn_stateReg : (drawn s).stateReg = s.stateReg := rfl
@[simp] theorem drawn_blkIn : (drawn s).blkIn = s.blkIn := rfl
@[simp] theorem drawn_blkOut : (drawn s).blkOut = s.blkOut := rfl
@[simp] theorem drawn_rk : (drawn s).rk = s.rk := rfl
@[simp] theorem drawn_mem : (drawn s).mem = s.mem := rfl
@[simp] theorem drawn_resp : (drawn s).resp = s.resp := rfl
@[simp] theorem drawn_program : (drawn s).program = s.program := rfl
@[simp] theorem drawn_pos : (drawn s).pos = s.pos := rfl
@[simp] theorem drawn_lastReads : (drawn s).lastReads = s.lastReads := rfl
@[simp] theorem drawn_held : (drawn s).held = s.held := rfl
@[simp] theorem drawn_hostFault : (drawn s).hostFault = s.hostFault := rfl
@[simp] theorem drawn_turns : (drawn s).turns = s.turns := rfl
@[simp] theorem drawn_draws : (drawn s).draws = s.draws + 1 := rfl

/-! respond -/
@[simp] theorem respond_bufBytes (r : Response) : (respond r s).bufBytes = s.bufBytes := rfl
@[simp] theorem respond_ie (r : Response) : (respond r s).ie = s.ie := rfl
@[simp] theorem respond_done (r : Response) : (respond r s).done = s.done := rfl
@[simp] theorem respond_ovr (r : Response) : (respond r s).ovr = s.ovr := rfl
@[simp] theorem respond_err (r : Response) : (respond r s).err = s.err := rfl
@[simp] theorem respond_latched (r : Response) : (respond r s).latched = s.latched := rfl
@[simp] theorem respond_opa (r : Response) : (respond r s).opa = s.opa := rfl
@[simp] theorem respond_opb (r : Response) : (respond r s).opb = s.opb := rfl
@[simp] theorem respond_res (r : Response) : (respond r s).res = s.res := rfl
@[simp] theorem respond_keylen (r : Response) : (respond r s).keylen = s.keylen := rfl
@[simp] theorem respond_rkInfo (r : Response) : (respond r s).rkInfo = s.rkInfo := rfl
@[simp] theorem respond_inLen (r : Response) : (respond r s).inLen = s.inLen := rfl
@[simp] theorem respond_outLen (r : Response) : (respond r s).outLen = s.outLen := rfl
@[simp] theorem respond_key (r : Response) : (respond r s).key = s.key := rfl
@[simp] theorem respond_iv (r : Response) : (respond r s).iv = s.iv := rfl
@[simp] theorem respond_stateReg (r : Response) : (respond r s).stateReg = s.stateReg := rfl
@[simp] theorem respond_blkIn (r : Response) : (respond r s).blkIn = s.blkIn := rfl
@[simp] theorem respond_blkOut (r : Response) : (respond r s).blkOut = s.blkOut := rfl
@[simp] theorem respond_rk (r : Response) : (respond r s).rk = s.rk := rfl
@[simp] theorem respond_mem (r : Response) : (respond r s).mem = s.mem := rfl
@[simp] theorem respond_resp (r : Response) : (respond r s).resp = some r := rfl
@[simp] theorem respond_program (r : Response) : (respond r s).program = s.program := rfl
@[simp] theorem respond_pos (r : Response) : (respond r s).pos = s.pos := rfl
@[simp] theorem respond_lastReads (r : Response) : (respond r s).lastReads = s.lastReads := rfl
@[simp] theorem respond_held (r : Response) : (respond r s).held = s.held := rfl
@[simp] theorem respond_hostFault (r : Response) : (respond r s).hostFault = (s.hostFault || decide (r = .error)) := rfl
@[simp] theorem respond_turns (r : Response) : (respond r s).turns = s.turns := rfl
@[simp] theorem respond_draws (r : Response) : (respond r s).draws = s.draws := rfl

/-! nextLine -/
@[simp] theorem nextLine_bufBytes : (nextLine s).bufBytes = s.bufBytes := rfl
@[simp] theorem nextLine_ie : (nextLine s).ie = s.ie := rfl
@[simp] theorem nextLine_done : (nextLine s).done = s.done := rfl
@[simp] theorem nextLine_ovr : (nextLine s).ovr = s.ovr := rfl
@[simp] theorem nextLine_err : (nextLine s).err = s.err := rfl
@[simp] theorem nextLine_latched : (nextLine s).latched = s.latched := rfl
@[simp] theorem nextLine_opa : (nextLine s).opa = s.opa := rfl
@[simp] theorem nextLine_opb : (nextLine s).opb = s.opb := rfl
@[simp] theorem nextLine_res : (nextLine s).res = s.res := rfl
@[simp] theorem nextLine_keylen : (nextLine s).keylen = s.keylen := rfl
@[simp] theorem nextLine_rkInfo : (nextLine s).rkInfo = s.rkInfo := rfl
@[simp] theorem nextLine_inLen : (nextLine s).inLen = s.inLen := rfl
@[simp] theorem nextLine_outLen : (nextLine s).outLen = s.outLen := rfl
@[simp] theorem nextLine_key : (nextLine s).key = s.key := rfl
@[simp] theorem nextLine_iv : (nextLine s).iv = s.iv := rfl
@[simp] theorem nextLine_stateReg : (nextLine s).stateReg = s.stateReg := rfl
@[simp] theorem nextLine_blkIn : (nextLine s).blkIn = s.blkIn := rfl
@[simp] theorem nextLine_blkOut : (nextLine s).blkOut = s.blkOut := rfl
@[simp] theorem nextLine_rk : (nextLine s).rk = s.rk := rfl
@[simp] theorem nextLine_mem : (nextLine s).mem = s.mem := rfl
@[simp] theorem nextLine_resp : (nextLine s).resp = s.resp := rfl
@[simp] theorem nextLine_program : (nextLine s).program = s.program := rfl
@[simp] theorem nextLine_pos : (nextLine s).pos = s.pos + 1 := rfl
@[simp] theorem nextLine_lastReads : (nextLine s).lastReads = s.lastReads := rfl
@[simp] theorem nextLine_held : (nextLine s).held = s.held := rfl
@[simp] theorem nextLine_hostFault : (nextLine s).hostFault = s.hostFault := rfl
@[simp] theorem nextLine_turns : (nextLine s).turns = s.turns := rfl
@[simp] theorem nextLine_draws : (nextLine s).draws = s.draws := rfl

/-! gotoLine -/
@[simp] theorem gotoLine_bufBytes (n : Nat) : (gotoLine n s).bufBytes = s.bufBytes := rfl
@[simp] theorem gotoLine_ie (n : Nat) : (gotoLine n s).ie = s.ie := rfl
@[simp] theorem gotoLine_done (n : Nat) : (gotoLine n s).done = s.done := rfl
@[simp] theorem gotoLine_ovr (n : Nat) : (gotoLine n s).ovr = s.ovr := rfl
@[simp] theorem gotoLine_err (n : Nat) : (gotoLine n s).err = s.err := rfl
@[simp] theorem gotoLine_latched (n : Nat) : (gotoLine n s).latched = s.latched := rfl
@[simp] theorem gotoLine_opa (n : Nat) : (gotoLine n s).opa = s.opa := rfl
@[simp] theorem gotoLine_opb (n : Nat) : (gotoLine n s).opb = s.opb := rfl
@[simp] theorem gotoLine_res (n : Nat) : (gotoLine n s).res = s.res := rfl
@[simp] theorem gotoLine_keylen (n : Nat) : (gotoLine n s).keylen = s.keylen := rfl
@[simp] theorem gotoLine_rkInfo (n : Nat) : (gotoLine n s).rkInfo = s.rkInfo := rfl
@[simp] theorem gotoLine_inLen (n : Nat) : (gotoLine n s).inLen = s.inLen := rfl
@[simp] theorem gotoLine_outLen (n : Nat) : (gotoLine n s).outLen = s.outLen := rfl
@[simp] theorem gotoLine_key (n : Nat) : (gotoLine n s).key = s.key := rfl
@[simp] theorem gotoLine_iv (n : Nat) : (gotoLine n s).iv = s.iv := rfl
@[simp] theorem gotoLine_stateReg (n : Nat) : (gotoLine n s).stateReg = s.stateReg := rfl
@[simp] theorem gotoLine_blkIn (n : Nat) : (gotoLine n s).blkIn = s.blkIn := rfl
@[simp] theorem gotoLine_blkOut (n : Nat) : (gotoLine n s).blkOut = s.blkOut := rfl
@[simp] theorem gotoLine_rk (n : Nat) : (gotoLine n s).rk = s.rk := rfl
@[simp] theorem gotoLine_mem (n : Nat) : (gotoLine n s).mem = s.mem := rfl
@[simp] theorem gotoLine_resp (n : Nat) : (gotoLine n s).resp = s.resp := rfl
@[simp] theorem gotoLine_program (n : Nat) : (gotoLine n s).program = s.program := rfl
@[simp] theorem gotoLine_pos (n : Nat) : (gotoLine n s).pos = n := rfl
@[simp] theorem gotoLine_lastReads (n : Nat) : (gotoLine n s).lastReads = s.lastReads := rfl
@[simp] theorem gotoLine_held (n : Nat) : (gotoLine n s).held = s.held := rfl
@[simp] theorem gotoLine_hostFault (n : Nat) : (gotoLine n s).hostFault = s.hostFault := rfl
@[simp] theorem gotoLine_turns (n : Nat) : (gotoLine n s).turns = s.turns := rfl
@[simp] theorem gotoLine_draws (n : Nat) : (gotoLine n s).draws = s.draws := rfl

/-! noteRead -/
@[simp] theorem noteRead_bufBytes (o : Offset) (v : Word) : (noteRead o v s).bufBytes = s.bufBytes := rfl
@[simp] theorem noteRead_ie (o : Offset) (v : Word) : (noteRead o v s).ie = s.ie := rfl
@[simp] theorem noteRead_done (o : Offset) (v : Word) : (noteRead o v s).done = s.done := rfl
@[simp] theorem noteRead_ovr (o : Offset) (v : Word) : (noteRead o v s).ovr = s.ovr := rfl
@[simp] theorem noteRead_err (o : Offset) (v : Word) : (noteRead o v s).err = s.err := rfl
@[simp] theorem noteRead_latched (o : Offset) (v : Word) : (noteRead o v s).latched = s.latched := rfl
@[simp] theorem noteRead_opa (o : Offset) (v : Word) : (noteRead o v s).opa = s.opa := rfl
@[simp] theorem noteRead_opb (o : Offset) (v : Word) : (noteRead o v s).opb = s.opb := rfl
@[simp] theorem noteRead_res (o : Offset) (v : Word) : (noteRead o v s).res = s.res := rfl
@[simp] theorem noteRead_keylen (o : Offset) (v : Word) : (noteRead o v s).keylen = s.keylen := rfl
@[simp] theorem noteRead_rkInfo (o : Offset) (v : Word) : (noteRead o v s).rkInfo = s.rkInfo := rfl
@[simp] theorem noteRead_inLen (o : Offset) (v : Word) : (noteRead o v s).inLen = s.inLen := rfl
@[simp] theorem noteRead_outLen (o : Offset) (v : Word) : (noteRead o v s).outLen = s.outLen := rfl
@[simp] theorem noteRead_key (o : Offset) (v : Word) : (noteRead o v s).key = s.key := rfl
@[simp] theorem noteRead_iv (o : Offset) (v : Word) : (noteRead o v s).iv = s.iv := rfl
@[simp] theorem noteRead_stateReg (o : Offset) (v : Word) : (noteRead o v s).stateReg = s.stateReg := rfl
@[simp] theorem noteRead_blkIn (o : Offset) (v : Word) : (noteRead o v s).blkIn = s.blkIn := rfl
@[simp] theorem noteRead_blkOut (o : Offset) (v : Word) : (noteRead o v s).blkOut = s.blkOut := rfl
@[simp] theorem noteRead_rk (o : Offset) (v : Word) : (noteRead o v s).rk = s.rk := rfl
@[simp] theorem noteRead_mem (o : Offset) (v : Word) : (noteRead o v s).mem = s.mem := rfl
@[simp] theorem noteRead_resp (o : Offset) (v : Word) : (noteRead o v s).resp = s.resp := rfl
@[simp] theorem noteRead_program (o : Offset) (v : Word) : (noteRead o v s).program = s.program := rfl
@[simp] theorem noteRead_pos (o : Offset) (v : Word) : (noteRead o v s).pos = s.pos := rfl
@[simp] theorem noteRead_lastReads (o : Offset) (v : Word) : (noteRead o v s).lastReads = entryPut o.toNat v s.lastReads := rfl
@[simp] theorem noteRead_held (o : Offset) (v : Word) : (noteRead o v s).held = s.held := rfl
@[simp] theorem noteRead_hostFault (o : Offset) (v : Word) : (noteRead o v s).hostFault = s.hostFault := rfl
@[simp] theorem noteRead_turns (o : Offset) (v : Word) : (noteRead o v s).turns = s.turns := rfl
@[simp] theorem noteRead_draws (o : Offset) (v : Word) : (noteRead o v s).draws = s.draws := rfl

/-! setHeld -/
@[simp] theorem setHeld_bufBytes (v : Option Word) : (setHeld v s).bufBytes = s.bufBytes := rfl
@[simp] theorem setHeld_ie (v : Option Word) : (setHeld v s).ie = s.ie := rfl
@[simp] theorem setHeld_done (v : Option Word) : (setHeld v s).done = s.done := rfl
@[simp] theorem setHeld_ovr (v : Option Word) : (setHeld v s).ovr = s.ovr := rfl
@[simp] theorem setHeld_err (v : Option Word) : (setHeld v s).err = s.err := rfl
@[simp] theorem setHeld_latched (v : Option Word) : (setHeld v s).latched = s.latched := rfl
@[simp] theorem setHeld_opa (v : Option Word) : (setHeld v s).opa = s.opa := rfl
@[simp] theorem setHeld_opb (v : Option Word) : (setHeld v s).opb = s.opb := rfl
@[simp] theorem setHeld_res (v : Option Word) : (setHeld v s).res = s.res := rfl
@[simp] theorem setHeld_keylen (v : Option Word) : (setHeld v s).keylen = s.keylen := rfl
@[simp] theorem setHeld_rkInfo (v : Option Word) : (setHeld v s).rkInfo = s.rkInfo := rfl
@[simp] theorem setHeld_inLen (v : Option Word) : (setHeld v s).inLen = s.inLen := rfl
@[simp] theorem setHeld_outLen (v : Option Word) : (setHeld v s).outLen = s.outLen := rfl
@[simp] theorem setHeld_key (v : Option Word) : (setHeld v s).key = s.key := rfl
@[simp] theorem setHeld_iv (v : Option Word) : (setHeld v s).iv = s.iv := rfl
@[simp] theorem setHeld_stateReg (v : Option Word) : (setHeld v s).stateReg = s.stateReg := rfl
@[simp] theorem setHeld_blkIn (v : Option Word) : (setHeld v s).blkIn = s.blkIn := rfl
@[simp] theorem setHeld_blkOut (v : Option Word) : (setHeld v s).blkOut = s.blkOut := rfl
@[simp] theorem setHeld_rk (v : Option Word) : (setHeld v s).rk = s.rk := rfl
@[simp] theorem setHeld_mem (v : Option Word) : (setHeld v s).mem = s.mem := rfl
@[simp] theorem setHeld_resp (v : Option Word) : (setHeld v s).resp = s.resp := rfl
@[simp] theorem setHeld_program (v : Option Word) : (setHeld v s).program = s.program := rfl
@[simp] theorem setHeld_pos (v : Option Word) : (setHeld v s).pos = s.pos := rfl
@[simp] theorem setHeld_lastReads (v : Option Word) : (setHeld v s).lastReads = s.lastReads := rfl
@[simp] theorem setHeld_held (v : Option Word) : (setHeld v s).held = v := rfl
@[simp] theorem setHeld_hostFault (v : Option Word) : (setHeld v s).hostFault = s.hostFault := rfl
@[simp] theorem setHeld_turns (v : Option Word) : (setHeld v s).turns = s.turns := rfl
@[simp] theorem setHeld_draws (v : Option Word) : (setHeld v s).draws = s.draws := rfl

/-! dropTurn -/
@[simp] theorem dropTurn_bufBytes : (dropTurn s).bufBytes = s.bufBytes := rfl
@[simp] theorem dropTurn_ie : (dropTurn s).ie = s.ie := rfl
@[simp] theorem dropTurn_done : (dropTurn s).done = s.done := rfl
@[simp] theorem dropTurn_ovr : (dropTurn s).ovr = s.ovr := rfl
@[simp] theorem dropTurn_err : (dropTurn s).err = s.err := rfl
@[simp] theorem dropTurn_latched : (dropTurn s).latched = s.latched := rfl
@[simp] theorem dropTurn_opa : (dropTurn s).opa = s.opa := rfl
@[simp] theorem dropTurn_opb : (dropTurn s).opb = s.opb := rfl
@[simp] theorem dropTurn_res : (dropTurn s).res = s.res := rfl
@[simp] theorem dropTurn_keylen : (dropTurn s).keylen = s.keylen := rfl
@[simp] theorem dropTurn_rkInfo : (dropTurn s).rkInfo = s.rkInfo := rfl
@[simp] theorem dropTurn_inLen : (dropTurn s).inLen = s.inLen := rfl
@[simp] theorem dropTurn_outLen : (dropTurn s).outLen = s.outLen := rfl
@[simp] theorem dropTurn_key : (dropTurn s).key = s.key := rfl
@[simp] theorem dropTurn_iv : (dropTurn s).iv = s.iv := rfl
@[simp] theorem dropTurn_stateReg : (dropTurn s).stateReg = s.stateReg := rfl
@[simp] theorem dropTurn_blkIn : (dropTurn s).blkIn = s.blkIn := rfl
@[simp] theorem dropTurn_blkOut : (dropTurn s).blkOut = s.blkOut := rfl
@[simp] theorem dropTurn_rk : (dropTurn s).rk = s.rk := rfl
@[simp] theorem dropTurn_mem : (dropTurn s).mem = s.mem := rfl
@[simp] theorem dropTurn_resp : (dropTurn s).resp = s.resp := rfl
@[simp] theorem dropTurn_program : (dropTurn s).program = s.program := rfl
@[simp] theorem dropTurn_pos : (dropTurn s).pos = s.pos := rfl
@[simp] theorem dropTurn_lastReads : (dropTurn s).lastReads = s.lastReads := rfl
@[simp] theorem dropTurn_held : (dropTurn s).held = s.held := rfl
@[simp] theorem dropTurn_hostFault : (dropTurn s).hostFault = s.hostFault := rfl
@[simp] theorem dropTurn_turns : (dropTurn s).turns = s.turns.tail := rfl
@[simp] theorem dropTurn_draws : (dropTurn s).draws = s.draws := rfl

/-! placeCommand -/
@[simp] theorem placeCommand_bufBytes (v : Word) : (placeCommand v s).bufBytes = s.bufBytes := rfl
@[simp] theorem placeCommand_ie (v : Word) : (placeCommand v s).ie = s.ie := rfl
@[simp] theorem placeCommand_done (v : Word) : (placeCommand v s).done = s.done := rfl
@[simp] theorem placeCommand_ovr (v : Word) : (placeCommand v s).ovr = s.ovr := rfl
@[simp] theorem placeCommand_err (v : Word) : (placeCommand v s).err = s.err := rfl
@[simp] theorem placeCommand_latched (v : Word) : (placeCommand v s).latched = some v := rfl
@[simp] theorem placeCommand_opa (v : Word) : (placeCommand v s).opa = s.opa := rfl
@[simp] theorem placeCommand_opb (v : Word) : (placeCommand v s).opb = s.opb := rfl
@[simp] theorem placeCommand_res (v : Word) : (placeCommand v s).res = s.res := rfl
@[simp] theorem placeCommand_keylen (v : Word) : (placeCommand v s).keylen = s.keylen := rfl
@[simp] theorem placeCommand_rkInfo (v : Word) : (placeCommand v s).rkInfo = s.rkInfo := rfl
@[simp] theorem placeCommand_inLen (v : Word) : (placeCommand v s).inLen = s.inLen := rfl
@[simp] theorem placeCommand_outLen (v : Word) : (placeCommand v s).outLen = s.outLen := rfl
@[simp] theorem placeCommand_key (v : Word) : (placeCommand v s).key = s.key := rfl
@[simp] theorem placeCommand_iv (v : Word) : (placeCommand v s).iv = s.iv := rfl
@[simp] theorem placeCommand_stateReg (v : Word) : (placeCommand v s).stateReg = s.stateReg := rfl
@[simp] theorem placeCommand_blkIn (v : Word) : (placeCommand v s).blkIn = s.blkIn := rfl
@[simp] theorem placeCommand_blkOut (v : Word) : (placeCommand v s).blkOut = s.blkOut := rfl
@[simp] theorem placeCommand_rk (v : Word) : (placeCommand v s).rk = s.rk := rfl
@[simp] theorem placeCommand_mem (v : Word) : (placeCommand v s).mem = s.mem := rfl
@[simp] theorem placeCommand_resp (v : Word) : (placeCommand v s).resp = s.resp := rfl
@[simp] theorem placeCommand_program (v : Word) : (placeCommand v s).program = s.program := rfl
@[simp] theorem placeCommand_pos (v : Word) : (placeCommand v s).pos = s.pos := rfl
@[simp] theorem placeCommand_lastReads (v : Word) : (placeCommand v s).lastReads = s.lastReads := rfl
@[simp] theorem placeCommand_held (v : Word) : (placeCommand v s).held = s.held := rfl
@[simp] theorem placeCommand_hostFault (v : Word) : (placeCommand v s).hostFault = s.hostFault := rfl
@[simp] theorem placeCommand_turns (v : Word) : (placeCommand v s).turns = .engine :: s.turns := rfl
@[simp] theorem placeCommand_draws (v : Word) : (placeCommand v s).draws = s.draws := rfl

/-! engineReset -/
@[simp] theorem engineReset_bufBytes : (engineReset s).bufBytes = s.bufBytes := rfl
@[simp] theorem engineReset_ie : (engineReset s).ie = false := rfl
@[simp] theorem engineReset_done : (engineReset s).done = false := rfl
@[simp] theorem engineReset_ovr : (engineReset s).ovr = false := rfl
@[simp] theorem engineReset_err : (engineReset s).err = .ok := rfl
@[simp] theorem engineReset_latched : (engineReset s).latched = none := rfl
@[simp] theorem engineReset_opa : (engineReset s).opa = 0 := rfl
@[simp] theorem engineReset_opb : (engineReset s).opb = 0 := rfl
@[simp] theorem engineReset_res : (engineReset s).res = 0 := rfl
@[simp] theorem engineReset_keylen : (engineReset s).keylen = 0 := rfl
@[simp] theorem engineReset_rkInfo : (engineReset s).rkInfo = none := rfl
@[simp] theorem engineReset_inLen : (engineReset s).inLen = 0 := rfl
@[simp] theorem engineReset_outLen : (engineReset s).outLen = 0 := rfl
@[simp] theorem engineReset_key : (engineReset s).key = Vector.replicate 8 0 := rfl
@[simp] theorem engineReset_iv : (engineReset s).iv = ⟨0, 0, 0, 0⟩ := rfl
@[simp] theorem engineReset_stateReg : (engineReset s).stateReg = ⟨0, 0, 0, 0⟩ := rfl
@[simp] theorem engineReset_blkIn : (engineReset s).blkIn = ⟨0, 0, 0, 0⟩ := rfl
@[simp] theorem engineReset_blkOut : (engineReset s).blkOut = ⟨0, 0, 0, 0⟩ := rfl
@[simp] theorem engineReset_rk : (engineReset s).rk = Vector.replicate 60 0 := rfl
@[simp] theorem engineReset_mem : (engineReset s).mem = [] := rfl
@[simp] theorem engineReset_resp : (engineReset s).resp = none := rfl
@[simp] theorem engineReset_program : (engineReset s).program = s.program := rfl
@[simp] theorem engineReset_pos : (engineReset s).pos = s.pos := rfl
@[simp] theorem engineReset_lastReads : (engineReset s).lastReads = s.lastReads := rfl
@[simp] theorem engineReset_held : (engineReset s).held = s.held := rfl
@[simp] theorem engineReset_hostFault : (engineReset s).hostFault = s.hostFault := rfl
@[simp] theorem engineReset_turns : (engineReset s).turns = s.turns := rfl
@[simp] theorem engineReset_draws : (engineReset s).draws = s.draws := rfl

/-- A flag that two fields make: BUSY after each update that writes the latched word. -/
@[simp] theorem busy_finish (c : ResultCode) : State.busy (finish c s) = false := rfl
@[simp] theorem busy_issue (v : Word) : State.busy (issue v s) = true := rfl
@[simp] theorem busy_placeCommand (v : Word) : State.busy (placeCommand v s) = true := rfl
@[simp] theorem busy_engineReset : State.busy (engineReset s) = false := rfl
@[simp] theorem busy_respond (r : Response) : State.busy (respond r s) = State.busy s := rfl
@[simp] theorem busy_dropTurn : State.busy (dropTurn s) = State.busy s := rfl
@[simp] theorem busy_setOverrun : State.busy (setOverrun s) = State.busy s := rfl
@[simp] theorem busy_writeStatus (v : Word) : State.busy (writeStatus v s) = State.busy s := rfl
@[simp] theorem busy_writeCtrl (v : Word) : State.busy (writeCtrl v s) = State.busy s := rfl

/-! The datapath after each update that leaves it alone. -/
@[simp] theorem datapath_finish (c : ResultCode) : datapath (finish c s) = datapath s := rfl
@[simp] theorem datapath_issue (v : Word) : datapath (issue v s) = datapath s := rfl
@[simp] theorem datapath_respond (r : Response) : datapath (respond r s) = datapath s := rfl
@[simp] theorem datapath_dropTurn : datapath (dropTurn s) = datapath s := rfl
@[simp] theorem datapath_setOverrun : datapath (setOverrun s) = datapath s := rfl
@[simp] theorem datapath_writeStatus (v : Word) : datapath (writeStatus v s) = datapath s := rfl
@[simp] theorem datapath_writeCtrl (v : Word) : datapath (writeCtrl v s) = datapath s := rfl
@[simp] theorem datapath_drawn : datapath (drawn s) = datapath s := rfl
@[simp] theorem datapath_placeCommand (v : Word) : datapath (placeCommand v s) = datapath s := rfl

end Sys2Proof.Machine
end

