-- ==== Sys2Proof/Laws/Memory.lean ====
section
/-! SUPPORT. The laws of the sorted entry lists and of the byte memory made of them: a read after a write, the other
places left alone, and that every memory operation keeps the canonical form and the buffers' bounds. -/

namespace Sys2Proof.Machine

section Entries

variable {α : Type}

theorem entryGet_entryPut (a b : Nat) (v : α) (m : List (Nat × α)) :
    entryGet b (entryPut a v m) = if a = b then some v else entryGet b m := by
  induction m with
  | nil => simp [entryPut, entryGet]
  | cons c m ih =>
    obtain ⟨k, x⟩ := c
    simp only [entryPut]
    split
    · simp [entryGet]
    · split
      · next h => subst h; simp only [entryGet]; split <;> simp_all
      · next h => simp only [entryGet, ih]; split <;> simp_all

@[simp] theorem entryGet_entryPut_self (a : Nat) (v : α) (m : List (Nat × α)) :
    entryGet a (entryPut a v m) = some v := by simp [entryGet_entryPut]

theorem entryGet_entryPut_ne {a b : Nat} (h : a ≠ b) (v : α) (m : List (Nat × α)) :
    entryGet b (entryPut a v m) = entryGet b m := by simp [entryGet_entryPut, h]

theorem entriesWf_cons (c : Nat × α) (m : List (Nat × α)) :
    entriesWf (c :: m) = true ↔ (∀ d ∈ m.head?, c.1 < d.1) ∧ entriesWf m = true := by
  cases m <;> simp [entriesWf]

theorem entryPut_head_le (a : Nat) (v : α) (m : List (Nat × α)) (k : Nat) (hk : k < a)
    (hm : ∀ d ∈ m.head?, k < d.1) : ∀ d ∈ (entryPut a v m).head?, k < d.1 := by
  cases m with
  | nil => simpa [entryPut]
  | cons c m =>
    obtain ⟨j, x⟩ := c
    simp only [entryPut]
    split
    · simpa
    · split <;> simp_all

/-- A write keeps the canonical form. -/
theorem entriesWf_entryPut (a : Nat) (v : α) (m : List (Nat × α)) (h : entriesWf m = true) :
    entriesWf (entryPut a v m) = true := by
  induction m with
  | nil => simp [entryPut, entriesWf]
  | cons c m ih =>
    obtain ⟨k, x⟩ := c
    rw [entriesWf_cons] at h
    simp only [entryPut]
    split
    · next hlt => rw [entriesWf_cons, entriesWf_cons]; exact ⟨by simpa using hlt, h⟩
    · split
      · next heq => subst heq; rw [entriesWf_cons]; exact h
      · next hlt hne =>
        rw [entriesWf_cons]
        exact ⟨entryPut_head_le a v m k (by omega) h.1, ih h.2⟩

theorem mem_entryPut {a : Nat} {v : α} {m : List (Nat × α)} {c : Nat × α} (h : c ∈ entryPut a v m) :
    c = (a, v) ∨ c ∈ m := by
  induction m with
  | nil => simpa [entryPut] using h
  | cons d m ih =>
    obtain ⟨k, x⟩ := d
    simp only [entryPut] at h
    split at h
    · simpa using h
    · split at h
      · simp only [List.mem_cons] at h ⊢; tauto
      · simp only [List.mem_cons] at h ⊢
        rcases h with h | h
        · exact .inr (.inl h)
        · rcases ih h with h | h
          · exact .inl h
          · exact .inr (.inr h)

end Entries

theorem Memory.wf_entryPut (a : Nat) (b : Byte) (m : List Host.Cell) (h : Memory.wf m = true) :
    Memory.wf (entryPut a b m) = true := entriesWf_entryPut a b m h

/-- `memWrite` keeps the canonical form. -/
theorem Memory.wf_memWrite (bs : List Byte) : ∀ (a : Nat) (m : List Host.Cell), Memory.wf m = true →
    Memory.wf (memWrite a bs m) = true := by
  induction bs with
  | nil => intro a m h; exact h
  | cons b bs ih => intro a m h; exact ih _ _ (Memory.wf_entryPut a b m h)

theorem Memory.wf_memWriteWord (a : Nat) (v : Word) (m : List Host.Cell) (h : Memory.wf m = true) :
    Memory.wf (memWriteWord a v m) = true := Memory.wf_memWrite _ _ _ h

/-- The memory of the reset state is in canonical form. -/
theorem Memory.wf_reset : Memory.wf State.reset.mem = true := rfl

/-- A byte below or beyond the written ones is as before. -/
theorem entryGet_memWrite_out (bs : List Byte) : ∀ (a x : Nat) (m : List Host.Cell), x < a ∨ a + bs.length ≤ x →
    entryGet x (memWrite a bs m) = entryGet x m := by
  induction bs with
  | nil => intro a x m _; rfl
  | cons b bs ih =>
    intro a x m h
    simp only [List.length_cons] at h
    rw [memWrite, ih (a + 1) x _ (by omega), entryGet_entryPut_ne (by omega)]

/-- A written byte reads back. -/
theorem entryGet_memWrite_in (bs : List Byte) : ∀ (a k : Nat) (m : List Host.Cell), k < bs.length →
    entryGet (a + k) (memWrite a bs m) = bs[k]? := by
  induction bs with
  | nil => intro a k m h; simp at h
  | cons b bs ih =>
    intro a k m h
    cases k with
    | zero => rw [memWrite, entryGet_memWrite_out bs (a + 1) (a + 0) _ (by omega)]; simp
    | succ k =>
      rw [memWrite, show a + (k + 1) = a + 1 + k by omega, ih (a + 1) k _ (by simpa using h)]
      simp

/-- `memRead` answers the bytes of the addresses it is given. -/
theorem memRead_ok_iff (m : List Host.Cell) : ∀ (n a : Nat) (bs : List Byte),
    memRead a n m = .ok bs ↔ bs.length = n ∧ ∀ k, k < n → entryGet (a + k) m = bs[k]? := by
  intro n
  induction n with
  | zero => intro a bs; simp [memRead, eq_comm (a := [])]
  | succ n ih =>
    intro a bs
    simp only [memRead]
    cases hg : entryGet a m with
    | none =>
      simp only [reduceCtorEq, false_iff, not_and]
      intro hl h
      have := h 0 (by omega)
      cases bs with
      | nil => simp at hl
      | cons b bs => simp [hg] at this
    | some b =>
      cases hr : memRead (a + 1) n m with
      | error f =>
        simp only [reduceCtorEq, false_iff, not_and]
        intro hl h
        cases bs with
        | nil => simp at hl
        | cons c bs =>
          have h' := (ih (a + 1) bs).2 ⟨by simpa using hl, fun k hk => by
            have := h (k + 1) (by omega)
            rw [show a + (k + 1) = a + 1 + k by omega] at this
            simpa using this⟩
          rw [hr] at h'
          cases h'
      | ok cs =>
        obtain ⟨hl, hcs⟩ := (ih (a + 1) cs).1 hr
        constructor
        · intro h
          cases h
          refine ⟨by simp [hl], fun k hk => ?_⟩
          cases k with
          | zero => simpa using hg
          | succ k =>
            rw [show a + (k + 1) = a + 1 + k by omega, hcs k (by omega)]
            simp
        · rintro ⟨hbl, hbs⟩
          have : b :: cs = bs := by
            apply List.ext_getElem?
            intro k
            cases k with
            | zero => rw [← hbs 0 (by omega)]; simp [hg]
            | succ k =>
              by_cases hk : k < n
              · rw [← hbs (k + 1) (by omega), show a + (k + 1) = a + 1 + k by omega, hcs k hk]
                simp
              · rw [List.getElem?_eq_none (by simp; omega), List.getElem?_eq_none (by omega)]
          simp [this]

/-- `memRead` faults exactly where a byte was not written since reset, and names one such byte. -/
theorem memRead_error (m : List Host.Cell) : ∀ (n a : Nat) (f : Fault), memRead a n m = .error f →
    ∃ k, k < n ∧ entryGet (a + k) m = none ∧ f = .unwrittenByte (a + k) := by
  intro n
  induction n with
  | zero => intro a f h; simp [memRead] at h
  | succ n ih =>
    intro a f h
    simp only [memRead] at h
    cases hg : entryGet a m with
    | none => rw [hg] at h; cases h; exact ⟨0, by omega, by simpa using hg, by simp⟩
    | some b =>
      rw [hg] at h
      cases hr : memRead (a + 1) n m with
      | error g =>
        rw [hr] at h
        cases h
        obtain ⟨k, hk, hn, hf⟩ := ih (a + 1) f hr
        exact ⟨k + 1, by omega, by rw [show a + (k + 1) = a + 1 + k by omega]; exact hn,
          by rw [show a + (k + 1) = a + 1 + k by omega]; exact hf⟩
      | ok cs => rw [hr] at h; cases h

theorem memRead_ok_of_written (m : List Host.Cell) (n a : Nat) (h : ∀ k, k < n → entryGet (a + k) m ≠ none) :
    ∃ bs, memRead a n m = .ok bs := by
  cases hr : memRead a n m with
  | ok bs => exact ⟨bs, rfl⟩
  | error f =>
    obtain ⟨k, hk, hn, -⟩ := memRead_error m n a f hr
    exact absurd hn (h k hk)

theorem memRead_length {m : List Host.Cell} {n a : Nat} {bs : List Byte} (h : memRead a n m = .ok bs) :
    bs.length = n := ((memRead_ok_iff m n a bs).1 h).1

/-- `entryPut` keeps every byte within the buffers when it writes within one. -/
theorem Memory.inBuffers_entryPut {n a : Nat} (b : Byte) {m : List Host.Cell} (h : Memory.inBuffers n m = true)
    (ha : (inBase ≤ a ∧ a < inBase + n) ∨ (outBase ≤ a ∧ a < outBase + n)) :
    Memory.inBuffers n (entryPut a b m) = true := by
  simp only [Memory.inBuffers, List.all_eq_true, Bool.or_eq_true, decide_eq_true_eq] at h ⊢
  intro c hc
  rcases mem_entryPut hc with rfl | hc
  · exact ha
  · exact h c hc

theorem Memory.inBuffers_memWrite_out {n : Nat} (bs : List Byte) : ∀ (a : Nat) (m : List Host.Cell),
    Memory.inBuffers n m = true → outBase ≤ a → a + bs.length ≤ outBase + n →
    Memory.inBuffers n (memWrite a bs m) = true := by
  induction bs with
  | nil => intro a m h _ _; exact h
  | cons b bs ih =>
    intro a m h h1 h2
    simp only [List.length_cons] at h2
    exact ih _ _ (Memory.inBuffers_entryPut b h (.inr ⟨h1, by omega⟩)) (by omega) (by omega)

theorem Memory.inBuffers_memWrite_in {n : Nat} (bs : List Byte) : ∀ (a : Nat) (m : List Host.Cell),
    Memory.inBuffers n m = true → inBase ≤ a → a + bs.length ≤ inBase + n →
    Memory.inBuffers n (memWrite a bs m) = true := by
  induction bs with
  | nil => intro a m h _ _; exact h
  | cons b bs ih =>
    intro a m h h1 h2
    simp only [List.length_cons] at h2
    exact ih _ _ (Memory.inBuffers_entryPut b h (.inl ⟨h1, by omega⟩)) (by omega) (by omega)

end Sys2Proof.Machine
end

