-- ==== Sys2Proof/Laws/Packing.lean ====
section
/-! SUPPORT. The laws of the operand forms: groups of four, the byte packing of R63, blocks as byte sequences, the state
matrix, and ⊕. -/

namespace Sys2Proof.Machine

section Groups

variable {α β γ : Type}

@[simp] theorem Quad.get_ofFn (f : Fin 4 → α) (i : Fin 4) : Quad.get (Quad.ofFn f) i = f i := by
  match i with
  | 0 => rfl
  | 1 => rfl
  | 2 => rfl
  | 3 => rfl

@[simp] theorem Quad.ofFn_get (q : Quad α) : Quad.ofFn (Quad.get q) = q := rfl

theorem Quad.ext_get {p q : Quad α} (h : ∀ i, Quad.get p i = Quad.get q i) : p = q := by
  rw [← Quad.ofFn_get p, ← Quad.ofFn_get q, funext h]

@[simp] theorem Quad.get_map (f : α → β) (q : Quad α) (i : Fin 4) : Quad.get (Quad.map f q) i = f (Quad.get q i) := by
  match i with
  | 0 => rfl
  | 1 => rfl
  | 2 => rfl
  | 3 => rfl

@[simp] theorem Quad.get_zip (f : α → β → γ) (p : Quad α) (q : Quad β) (i : Fin 4) :
    Quad.get (Quad.zip f p q) i = f (Quad.get p i) (Quad.get q i) := by
  match i with
  | 0 => rfl
  | 1 => rfl
  | 2 => rfl
  | 3 => rfl

@[simp] theorem Quad.get_set (q : Quad α) (i j : Fin 4) (a : α) :
    Quad.get (Quad.set q i a) j = if j = i then a else Quad.get q j := by simp [Quad.set]

@[simp] theorem Quad.map_map (f : α → β) (g : β → γ) (q : Quad α) : Quad.map g (Quad.map f q) = Quad.map (g ∘ f) q := rfl

@[simp] theorem Quad.map_id (q : Quad α) : Quad.map id q = q := rfl

end Groups

/-- Bit by bit, what a packed word holds (R63). -/
theorem getLsbD_packWord (c : Col) (i : Nat) : (packWord c).getLsbD i =
    if i < 8 then c.q3.getLsbD i else if i < 16 then c.q2.getLsbD (i - 8)
    else if i < 24 then c.q1.getLsbD (i - 16) else c.q0.getLsbD (i - 24) := by
  show BitVec.getLsbD (w := 8 + 8 + 8 + 8) (c.q0 ++ c.q1 ++ c.q2 ++ c.q3) i = _
  simp only [BitVec.getLsbD_append]
  repeat' split
  all_goals first | rfl | omega

/-- The bytes of a packed word are the bytes packed (R63). -/
@[simp] theorem unpackWord_packWord (c : Col) : unpackWord (packWord c) = c := by
  obtain ⟨a, b, d, e⟩ := c
  simp only [unpackWord, Quad.mk.injEq]
  refine ⟨?_, ?_, ?_, ?_⟩ <;>
  · apply BitVec.eq_of_getLsbD_eq
    intro i hi
    simp only [BitVec.getLsbD_extractLsb', getLsbD_packWord, hi, decide_true, Bool.true_and]
    repeat' split
    all_goals first | omega | (congr 1; omega)

/-- Packing the bytes of a word gives the word (R63). -/
@[simp] theorem packWord_unpackWord (v : Word) : packWord (unpackWord v) = v := by
  apply BitVec.eq_of_getLsbD_eq
  intro i hi
  simp only [getLsbD_packWord, unpackWord, BitVec.getLsbD_extractLsb']
  repeat' split
  all_goals
    rw [decide_eq_true (by omega), Bool.true_and]
    congr 1
    omega

theorem packWord_injective {c d : Col} (h : packWord c = packWord d) : c = d := by
  rw [← unpackWord_packWord c, h, unpackWord_packWord]

@[simp] theorem blockOfReg_regOfBlock (b : Block) : blockOfReg (regOfBlock b) = b := by
  simp [blockOfReg, regOfBlock, Quad.map]

@[simp] theorem regOfBlock_blockOfReg (r : Quad Word) : regOfBlock (blockOfReg r) = r := by
  simp [blockOfReg, regOfBlock, Quad.map]

/-- Byte r of word c, as the unpacked byte. -/
theorem get_unpackWord (v : Word) (r : Fin 4) : Quad.get (unpackWord v) r = v.extractLsb' (24 - 8 * r.val) 8 := by
  match r with
  | 0 => rfl
  | 1 => rfl
  | 2 => rfl
  | 3 => rfl

theorem regByte_eq (q : Quad Word) (r c : Fin 4) : regByte q r c = Quad.get (Quad.get (blockOfReg q) c) r := by
  simp [regByte, blockOfReg, get_unpackWord]

@[simp] theorem regByte_regOfBlock (b : Block) (r c : Fin 4) : regByte (regOfBlock b) r c = Quad.get (Quad.get b c) r := by
  simp [regByte_eq]

@[simp] theorem Matrix.get_ofFn (f : Fin 4 → Fin 4 → Byte) (r c : Fin 4) : Matrix.get (Matrix.ofFn f) r c = f r c := by
  simp [Matrix.get, Matrix.ofFn]

theorem Matrix.ext_get {s t : Matrix} (h : ∀ r c, Matrix.get s r c = Matrix.get t r c) : s = t := by
  obtain ⟨p⟩ := s
  obtain ⟨q⟩ := t
  congr 1
  exact Quad.ext_get fun r => Quad.ext_get fun c => h r c

@[simp] theorem get_toState (b : Block) (r c : Fin 4) : Matrix.get (toState b) r c = Quad.get (Quad.get b c) r := by
  simp [toState]

@[simp] theorem get_fromState (s : Matrix) (r c : Fin 4) : Quad.get (Quad.get (fromState s) c) r = Matrix.get s r c := by
  simp [fromState]

@[simp] theorem toState_fromState (s : Matrix) : toState (fromState s) = s := Matrix.ext_get fun r c => by simp

@[simp] theorem fromState_toState (b : Block) : fromState (toState b) = b :=
  Quad.ext_get fun c => Quad.ext_get fun r => by simp

theorem xorCol_comm (a b : Col) : xorCol a b = xorCol b a := by simp [xorCol, Quad.zip, BitVec.xor_comm]

@[simp] theorem xorCol_xorCol (a b : Col) : xorCol (xorCol a b) b = a := by
  simp [xorCol, Quad.zip]

@[simp] theorem xorBlock_xorBlock (a b : Block) : xorBlock (xorBlock a b) b = a := by
  simp [xorBlock, Quad.zip]

@[simp] theorem length_blockBytes (b : Block) : (blockBytes b).length = 16 := by simp [blockBytes, Quad.toList]

@[simp] theorem blockOfBytes_blockBytes (b : Block) (l : List Byte) : blockOfBytes (blockBytes b ++ l) = b := rfl

@[simp] theorem drop_blockBytes (b : Block) (l : List Byte) : (blockBytes b ++ l).drop 16 = l := by
  rw [List.drop_append_of_le_length (by simp)]
  simp [List.drop_of_length_le]

/-- The first 16 bytes of a long enough sequence are its first block. -/
theorem blockBytes_blockOfBytes (l : List Byte) (h : 16 ≤ l.length) : blockBytes (blockOfBytes l) = l.take 16 := by
  match l with
  | _ :: _ :: _ :: _ :: _ :: _ :: _ :: _ :: _ :: _ :: _ :: _ :: _ :: _ :: _ :: _ :: _ => rfl

@[simp] theorem length_blocksBytes (bs : List Block) : (blocksBytes bs).length = 16 * bs.length := by
  induction bs with
  | nil => rfl
  | cons b bs ih => simp only [blocksBytes, List.length_append, length_blockBytes, ih, List.length_cons]; omega

@[simp] theorem length_takeBlocks (n : Nat) : ∀ l : List Byte, (takeBlocks n l).length = n := by
  induction n with
  | zero => intro l; rfl
  | succ n ih => intro l; simp [takeBlocks, ih]

/-- Blocks laid out as bytes and taken again. -/
@[simp] theorem takeBlocks_blocksBytes (bs : List Block) (l : List Byte) :
    takeBlocks bs.length (blocksBytes bs ++ l) = bs := by
  induction bs with
  | nil => rfl
  | cons b bs ih => simp [takeBlocks, blocksBytes, List.append_assoc, ih]

theorem fullBlocks_blocksBytes (bs : List Block) (l : List Byte) (h : l.length < 16) :
    fullBlocks (blocksBytes bs ++ l) = bs := by
  have : (blocksBytes bs ++ l).length / 16 = bs.length := by simp; omega
  rw [fullBlocks, this, takeBlocks_blocksBytes]

theorem tailBytes_blocksBytes (bs : List Block) (l : List Byte) (h : l.length < 16) :
    tailBytes (blocksBytes bs ++ l) = l := by
  have : (blocksBytes bs ++ l).length / 16 = bs.length := by simp; omega
  rw [tailBytes, this, List.drop_append_of_le_length (by simp), List.drop_of_length_le (by simp), List.nil_append]

/-- The blocks of a byte sequence, laid out again, with the rest. -/
theorem blocksBytes_takeBlocks (n : Nat) : ∀ l : List Byte, 16 * n ≤ l.length →
    blocksBytes (takeBlocks n l) = l.take (16 * n) := by
  induction n with
  | zero => intro l _; simp [takeBlocks, blocksBytes]
  | succ n ih =>
    intro l h
    rw [takeBlocks, blocksBytes, blockBytes_blockOfBytes l (by omega), ih _ (by simp; omega),
      show 16 * (n + 1) = 16 + 16 * n by omega, List.take_add]

theorem fullBlocks_append_tailBytes (l : List Byte) : blocksBytes (fullBlocks l) ++ tailBytes l = l := by
  rw [fullBlocks, blocksBytes_takeBlocks _ _ (by omega), tailBytes, List.take_append_drop]

@[simp] theorem length_fullBlocks (l : List Byte) : (fullBlocks l).length = l.length / 16 := by simp [fullBlocks]

@[simp] theorem length_tailBytes (l : List Byte) : (tailBytes l).length = l.length % 16 := by
  simp [tailBytes]; omega

end Sys2Proof.Machine
end

