-- ==== Sys2Proof/Laws/Ops.lean ====
section
/-! SUPPORT. One lemma per shared operation that says once everything it can do: the two completions, the check of the
schedule, the read of the input, a host write, a host read, a transfer, a line's read, and a turn. -/

namespace Sys2Proof.Machine

theorem complete_next_iff (s t : State) : complete s = .next t ↔ t = finish .ok s := by
  simp [complete, eq_comm]

theorem raise_next_iff (c : ResultCode) (s t : State) : raise c s = .next t ↔ t = finish c s := by
  simp [raise, eq_comm]

/-- With no schedule the command completes with NO_KEY; with one, the rest of it decides. -/
theorem withSchedule_eq (s : State) (rest : KeySize → Result) :
    (s.rkInfo = none ∧ withSchedule s rest = .next (finish .noKey s)) ∨
    ∃ ks, s.rkInfo = some ks ∧ withSchedule s rest = rest ks := by
  cases h : s.rkInfo with
  | none => exact .inl ⟨rfl, by simp [withSchedule, h, raise]⟩
  | some ks => exact .inr ⟨ks, rfl, by simp [withSchedule, h]⟩

/-- The input is read whole, or an unwritten byte of it faults. -/
theorem withInput_eq (n : Nat) (s : State) (rest : List Byte → Result) :
    (∃ bs, bs.length = n ∧ bytesAt s inBase bs ∧ withInput n s rest = rest bs) ∨
    ∃ k, k < n ∧ byteAt s (inBase + k) = none ∧ withInput n s rest = .fault (.unwrittenByte (inBase + k)) := by
  cases h : memRead inBase n s.mem with
  | ok bs =>
    obtain ⟨hl, hb⟩ := (memRead_ok_iff s.mem n inBase bs).1 h
    exact .inl ⟨bs, hl, fun k hk => hb k (by omega), by simp [withInput, h]⟩
  | error f =>
    obtain ⟨k, hk, hn, rfl⟩ := memRead_error s.mem n inBase f h
    exact .inr ⟨k, hk, hn, by simp [withInput, h]⟩

theorem withInput_of_bytesAt (s : State) (bs : List Byte) (rest : List Byte → Result) (h : bytesAt s inBase bs) :
    withInput bs.length s rest = rest bs := by
  have : memRead inBase bs.length s.mem = .ok bs := (memRead_ok_iff s.mem bs.length inBase bs).2 ⟨rfl, h⟩
  simp [withInput, this]

/-- A result lands in OUT, and every other byte stays. -/
theorem byteAt_writeOut_outside (out : List Byte) (n : Nat) (s : State) (a : Nat)
    (h : a < outBase ∨ outBase + out.length ≤ a) : byteAt (writeOut out n s) a = byteAt s a :=
  entryGet_memWrite_out out outBase a s.mem h

theorem bytesAt_writeOut (out : List Byte) (n : Nat) (s : State) : bytesAt (writeOut out n s) outBase out :=
  fun k hk => entryGet_memWrite_in out outBase k s.mem hk

/-- What a host write can do: an ERROR response alone, or a write of the register at its offset (R200). -/
theorem hostWrite_eq (off : Offset) (v : Word) (strb : BitVec 4) (s : State) :
    ((aligned off = false ∨ strb ≠ 0b1111 ∨ regAt s.bufBytes off = none) ∧ hostWrite off v strb s = respond .error s) ∨
    ∃ r, aligned off = true ∧ strb = 0b1111 ∧ regAt s.bufBytes off = some r ∧
      hostWrite off v strb s = respond .okayWrite (writeReg r v s) := by
  unfold hostWrite
  split
  · next h => exact .inl ⟨by tauto, rfl⟩
  · next h =>
    simp only [not_or, Bool.not_eq_false, ne_eq, not_not] at h
    split
    · next h' => exact .inl ⟨.inr (.inr h'), rfl⟩
    · next r h' => exact .inr ⟨r, h.1, h.2, h', rfl⟩

/-- What a write of a register can do: STATUS and CTRL take it, a busy engine discards it, CMD issues, and otherwise the
register stores it (R200, R205). -/
theorem writeReg_eq (r : RegName) (v : Word) (s : State) :
    (r = .status ∧ writeReg r v s = writeStatus v s) ∨ (r = .ctrl ∧ writeReg r v s = writeCtrl v s) ∨
    (r ≠ .status ∧ r ≠ .ctrl ∧ State.busy s = true ∧ writeReg r v s = setOverrun s) ∨
    (r = .cmd ∧ State.busy s = false ∧ writeReg r v s = issue v s) ∨
    (r ≠ .status ∧ r ≠ .ctrl ∧ r ≠ .cmd ∧ State.busy s = false ∧ writeReg r v s = storeReg r v s) := by
  cases r <;> simp [writeReg] <;> cases State.busy s <;> simp

/-- A whole-word write of a mapped register. -/
theorem hostWrite_at {off : Offset} {r : RegName} {s : State} (v : Word) (ha : aligned off = true)
    (hr : regAt s.bufBytes off = some r) : hostWrite off v 0b1111 s = respond .okayWrite (writeReg r v s) := by
  simp [hostWrite, ha, hr]

/-- A read of a mapped register that is no result of a command in flight. -/
theorem hostRead_at {off : Offset} {r : RegName} {s : State} {v : Word} (ha : aligned off = true)
    (hr : regAt s.bufBytes off = some r) (hb : State.busy s = false ∨ RegName.isResult r = false)
    (hv : regWord r s = .ok v) : hostRead off s = .ok (v, respond (.okayRead v) s) := by
  have : (State.busy s && RegName.isResult r) = false := by rcases hb with h | h <;> simp [h]
  simp [hostRead, ha, hr, this, hv]

/-- An OKAY response changes the response ports alone. -/
theorem respond_okayWrite (s : State) : respond .okayWrite s = { s with resp := some .okayWrite } := by
  simp [respond]

theorem respond_okayRead (v : Word) (s : State) :
    respond (.okayRead v) s = { s with resp := some (.okayRead v) } := by
  simp [respond]

theorem respond_error (s : State) : respond .error s = { s with resp := some .error, hostFault := true } := by
  simp [respond]

/-- What a host read can do: an ERROR response with 0, a free value, the word of the register, or the fault of an unwritten
byte (R201). -/
theorem hostRead_eq (off : Offset) (s : State) :
    ((aligned off = false ∨ regAt s.bufBytes off = none) ∧ hostRead off s = .ok (0, respond .error s)) ∨
    ∃ r, aligned off = true ∧ regAt s.bufBytes off = some r ∧
      ((State.busy s = true ∧ RegName.isResult r = true ∧ hostRead off s =
          .ok (Config.freeRead s.draws, respond (.okayRead (Config.freeRead s.draws)) (drawn s))) ∨
       ((State.busy s = false ∨ RegName.isResult r = false) ∧
          ((∃ v, regWord r s = .ok v ∧ hostRead off s = .ok (v, respond (.okayRead v) s)) ∨
           ∃ f, regWord r s = .error f ∧ hostRead off s = .error f))) := by
  unfold hostRead
  split
  · next h => exact .inl ⟨.inl h, rfl⟩
  · next h =>
    split
    · next h' => exact .inl ⟨.inr h', rfl⟩
    · next r h' =>
      refine .inr ⟨r, by simpa using h, h', ?_⟩
      split
      · next hb =>
        simp only [Bool.and_eq_true] at hb
        exact .inl ⟨hb.1, hb.2, rfl⟩
      · next hb =>
        refine .inr ⟨by cases h1 : State.busy s <;> cases h2 : RegName.isResult r <;> simp_all, ?_⟩
        split
        · next f hf => exact .inr ⟨f, hf, rfl⟩
        · next w hw => exact .inl ⟨w, hw, rfl⟩

/-- A host read changes the response, the record of a fault and the counter of free values, and nothing else (R72). -/
theorem hostRead_state {off : Offset} {s t : State} {v : Word} (h : hostRead off s = .ok (v, t)) :
    t = { s with resp := t.resp, hostFault := t.hostFault, draws := t.draws } := by
  rcases hostRead_eq off s with ⟨-, e⟩ | ⟨r, -, -, ⟨-, -, e⟩ | ⟨-, ⟨w, -, e⟩ | ⟨f, -, e⟩⟩⟩ <;> rw [e] at h <;> cases h <;> rfl

/-- What a transfer can do (R74). -/
theorem transfer_next {tr : Transfer} {s t : State} (h : transfer tr s = .next t) :
    (∃ off v strb, tr = .write off v strb ∧ t = hostWrite off v strb s) ∨
    ∃ off v, tr = .read off ∧ hostRead off s = .ok (v, t) := by
  cases tr with
  | write off v strb => exact .inl ⟨off, v, strb, rfl, by simpa [transfer, eq_comm] using h⟩
  | read off =>
    simp only [transfer] at h
    split at h
    · cases h
    · next v s' hr => cases h; exact .inr ⟨off, v, rfl, hr⟩

/-- What a line's read can do. -/
theorem programRead_next {r : RegName} {s t : State} {rest : Word → State → State}
    (h : programRead r s rest = .next t) :
    ∃ v s', hostRead (offsetOf r) s = .ok (v, s') ∧ t = rest v (noteRead (offsetOf r) v s') := by
  simp only [programRead] at h
  split at h
  · cases h
  · next v s' hr => cases h; exact ⟨v, s', hr, rfl⟩

/-- What the engine's turn can do (R203, R219). -/
theorem engineStep_eq (s : State) :
    (s.latched = none ∧ engineStep s = .next s) ∨
    (∃ w i, s.latched = some w ∧ decode w = .ok i ∧ engineStep s = exec i s) ∨
    ∃ w e, s.latched = some w ∧ decode w = .error e ∧ engineStep s = .next (finish .illegalCommand s) := by
  unfold engineStep
  split
  · next h => exact .inl ⟨h, rfl⟩
  · next w h =>
    cases hd : decode w with
    | ok i => exact .inr (.inl ⟨w, i, h, hd, by simp [completeWord, hd]⟩)
    | error e => exact .inr (.inr ⟨w, e, h, hd, by simp [completeWord, hd, execIllegal, raise]⟩)

/-- Which turn a step takes, and on which state. -/
theorem step_eq (s : State) :
    (s.turns = [] ∧ State.busy s = true ∧ step s = engineStep s) ∨
    (s.turns = [] ∧ State.busy s = false ∧ step s = programStep s) ∨
    ∃ t ts, s.turns = t :: ts ∧ step s = takeTurn t (dropTurn s) := by
  unfold step nextEvent
  split
  · next h => cases hb : State.busy s <;> simp [h, unofferedTurn, hb, takeTurn]
  · next t ts h => exact .inr (.inr ⟨t, ts, h, rfl⟩)

end Sys2Proof.Machine
end

