-- ==== Sys2Proof/Laws/PerInstr.lean ====
section
/-! SUPPORT. The command word of each instruction, constructor by constructor: the OPCODE field of R98 (R91), ROUND in bits
[11:8] of ADD_ROUND_KEY alone (R92), and every bit the format CMD32 reserves 0 (R90, R93). -/

namespace Sys2Proof.Laws

/-- OPCODE as the opcode map of R98 gives it. -/
def CommandWord.opcode : Instr → Byte
  | .nop => 0x00
  | .gfXtime => 0x01
  | .gfMul => 0x02
  | .sbox => 0x03
  | .invSbox => 0x04
  | .subWord => 0x05
  | .rotWord => 0x06
  | .subBytes => 0x10
  | .invSubBytes => 0x11
  | .shiftRows => 0x12
  | .invShiftRows => 0x13
  | .mixColumns => 0x14
  | .invMixColumns => 0x15
  | .addRoundKey _ => 0x16
  | .keyExpand => 0x20
  | .encryptBlock => 0x21
  | .decryptBlock => 0x22
  | .cbcEncrypt => 0x30
  | .cbcDecrypt => 0x31
  | .ctrEncrypt => 0x32
  | .ctrDecrypt => 0x33
  | .ctrIncrement => 0x34

/-- ROUND as the word carries it: 0 in every command without the field. -/
def CommandWord.round : Instr → Nat
  | .addRoundKey round => round
  | .nop | .gfXtime | .gfMul | .sbox | .invSbox | .subWord | .rotWord => 0
  | .subBytes | .invSubBytes | .shiftRows | .invShiftRows | .mixColumns | .invMixColumns => 0
  | .keyExpand | .encryptBlock | .decryptBlock => 0
  | .cbcEncrypt | .cbcDecrypt | .ctrEncrypt | .ctrDecrypt | .ctrIncrement => 0

/-- A well-formed instruction's word has its OPCODE, its ROUND, and 0 in bits [31:12]. -/
def CommandWord.Statement (i : Instr) : Prop :=
  i.wellFormed = true →
    opcodeField (encode i) = CommandWord.opcode i ∧ (roundField (encode i)).toNat = CommandWord.round i ∧
    (encode i).extractLsb' 12 20 = 0

theorem CommandWord.nop : CommandWord.Statement .nop := fun _ => by decide

theorem CommandWord.gfXtime : CommandWord.Statement .gfXtime := fun _ => by decide

theorem CommandWord.gfMul : CommandWord.Statement .gfMul := fun _ => by decide

theorem CommandWord.sbox : CommandWord.Statement .sbox := fun _ => by decide

theorem CommandWord.invSbox : CommandWord.Statement .invSbox := fun _ => by decide

theorem CommandWord.subWord : CommandWord.Statement .subWord := fun _ => by decide

theorem CommandWord.rotWord : CommandWord.Statement .rotWord := fun _ => by decide

theorem CommandWord.subBytes : CommandWord.Statement .subBytes := fun _ => by decide

theorem CommandWord.invSubBytes : CommandWord.Statement .invSubBytes := fun _ => by decide

theorem CommandWord.shiftRows : CommandWord.Statement .shiftRows := fun _ => by decide

theorem CommandWord.invShiftRows : CommandWord.Statement .invShiftRows := fun _ => by decide

theorem CommandWord.mixColumns : CommandWord.Statement .mixColumns := fun _ => by decide

theorem CommandWord.invMixColumns : CommandWord.Statement .invMixColumns := fun _ => by decide

theorem CommandWord.addRoundKey (round : Nat) : CommandWord.Statement (.addRoundKey round) := by
  intro h
  have hr : round ≤ 15 := of_decide_eq_true h
  have all : ∀ r : Fin 16, opcodeField (encode (.addRoundKey r.val)) = 0x16 ∧
      (roundField (encode (.addRoundKey r.val))).toNat = r.val ∧
      (encode (.addRoundKey r.val)).extractLsb' 12 20 = 0 := by decide
  exact all ⟨round, by omega⟩

theorem CommandWord.keyExpand : CommandWord.Statement .keyExpand := fun _ => by decide

theorem CommandWord.encryptBlock : CommandWord.Statement .encryptBlock := fun _ => by decide

theorem CommandWord.decryptBlock : CommandWord.Statement .decryptBlock := fun _ => by decide

theorem CommandWord.cbcEncrypt : CommandWord.Statement .cbcEncrypt := fun _ => by decide

theorem CommandWord.cbcDecrypt : CommandWord.Statement .cbcDecrypt := fun _ => by decide

theorem CommandWord.ctrEncrypt : CommandWord.Statement .ctrEncrypt := fun _ => by decide

theorem CommandWord.ctrDecrypt : CommandWord.Statement .ctrDecrypt := fun _ => by decide

theorem CommandWord.ctrIncrement : CommandWord.Statement .ctrIncrement := fun _ => by decide

end Sys2Proof.Laws
end

