-- ==== Sys2Proof/Tests/Slice0.lean ====
section
/-! SUPPORT. This row's own tests: the well-formedness smoke test, a word written out from the opcode map for every command,
one or two one-step tests a command whose expected results are the vectors of 95_test_vectors.md, the host program's
assembly (R101), and a named witness for the hypotheses of every statement that has some. -/

namespace Sys2Proof.Tests

open Sys2Proof Sys2Proof.Machine

set_option maxRecDepth 100000

/-! ## Helpers -/

/-- A 128-bit register from its hex digits, byte 0 first (R63). -/
def blk (n : BitVec 128) : Quad Word :=
  ⟨n.extractLsb' 96 32, n.extractLsb' 64 32, n.extractLsb' 32 32, n.extractLsb' 0 32⟩

/-- n bytes from their hex digits, byte 0 first. -/
def hexBytes (n v : Nat) : List Byte := (List.range n).map fun i => BitVec.ofNat 8 (v / 256 ^ (n - 1 - i))

/-- What the command leaves, if it gives a next state. -/
def after (i : Instr) (s : State) : Option State :=
  match exec i s with
  | .next t => some t
  | .fault _ => none
  | .refused _ => none

/-- The key words of a key of n bytes, in a KEY register file. -/
def keyFile (n v : Nat) : Vector Word 8 :=
  Vector.ofFn fun i : Fin 8 => packWord (colOfBytes ((hexBytes n v).drop (4 * i.val)))

/-- The reset state with a key and its length. -/
def keyState (n v : Nat) : State := { State.reset with key := keyFile n v, keylen := BitVec.ofNat 32 n }

/-- The reset state with the schedule of a key expanded. -/
def keyed (ks : KeySize) (v : Nat) : State :=
  let key := keyCols (keyState (4 * KeySize.nk ks) v) (KeySize.nk ks)
  { State.reset with rk := scheduleMemory ks (keyExpansion ks key), rkInfo := some ks }

/-- The key of the source's own vector. -/
def k128 : Nat := 0x2b7e151628aed2a6abf7158809cf4f3c

/-- The state with a message of n bytes in IN. -/
def withMessage (n v : Nat) (s : State) : State :=
  { s with mem := memWrite inBase (hexBytes n v) s.mem, inLen := BitVec.ofNat 32 n }

/-- The state with IV A of the vectors. -/
def ivA (s : State) : State := { s with iv := blk 0x000102030405060708090a0b0c0d0e0f }

/-- The state with IV B of the vectors. -/
def ivB (s : State) : State := { s with iv := blk 0xf0f1f2f3f4f5f6f7f8f9fafbfcfdfeff }

/-- The n bytes of OUT. -/
def outBytes (n : Nat) (s : State) : List (Option Byte) := (List.range n).map fun k => byteAt s (outBase + k)

/-- The bytes as written bytes. -/
def written (n v : Nat) : List (Option Byte) := (hexBytes n v).map some

/-- A command word in flight at reset. -/
def inFlight (v : Word) : State := { State.reset with latched := some v }

/-! ## Well-formedness and decoding (30_encoding.md) -/

theorem test_wellFormed_round_15 : (Instr.addRoundKey 15).wellFormed = true := by decide

theorem test_wellFormed_refuses_round_16 : (Instr.addRoundKey 16).wellFormed = false := by decide

theorem test_decode_nop : decode 0b00000000000000000000000000000000 = .ok .nop := by decide

theorem test_decode_gfXtime : decode 0b00000000000000000000000000000001 = .ok .gfXtime := by decide

theorem test_decode_gfMul : decode 0b00000000000000000000000000000010 = .ok .gfMul := by decide

theorem test_decode_sbox : decode 0b00000000000000000000000000000011 = .ok .sbox := by decide

theorem test_decode_invSbox : decode 0b00000000000000000000000000000100 = .ok .invSbox := by decide

theorem test_decode_subWord : decode 0b00000000000000000000000000000101 = .ok .subWord := by decide

theorem test_decode_rotWord : decode 0b00000000000000000000000000000110 = .ok .rotWord := by decide

theorem test_decode_subBytes : decode 0b00000000000000000000000000010000 = .ok .subBytes := by decide

theorem test_decode_invSubBytes : decode 0b00000000000000000000000000010001 = .ok .invSubBytes := by decide

theorem test_decode_shiftRows : decode 0b00000000000000000000000000010010 = .ok .shiftRows := by decide

theorem test_decode_invShiftRows : decode 0b00000000000000000000000000010011 = .ok .invShiftRows := by decide

theorem test_decode_mixColumns : decode 0b00000000000000000000000000010100 = .ok .mixColumns := by decide

theorem test_decode_invMixColumns : decode 0b00000000000000000000000000010101 = .ok .invMixColumns := by decide

theorem test_decode_addRoundKey : decode 0b00000000000000000000101000010110 = .ok (.addRoundKey 10) := by decide

theorem test_decode_keyExpand : decode 0b00000000000000000000000000100000 = .ok .keyExpand := by decide

theorem test_decode_encryptBlock : decode 0b00000000000000000000000000100001 = .ok .encryptBlock := by decide

theorem test_decode_decryptBlock : decode 0b00000000000000000000000000100010 = .ok .decryptBlock := by decide

theorem test_decode_cbcEncrypt : decode 0b00000000000000000000000000110000 = .ok .cbcEncrypt := by decide

theorem test_decode_cbcDecrypt : decode 0b00000000000000000000000000110001 = .ok .cbcDecrypt := by decide

theorem test_decode_ctrEncrypt : decode 0b00000000000000000000000000110010 = .ok .ctrEncrypt := by decide

theorem test_decode_ctrDecrypt : decode 0b00000000000000000000000000110011 = .ok .ctrDecrypt := by decide

theorem test_decode_ctrIncrement : decode 0b00000000000000000000000000110100 = .ok .ctrIncrement := by decide

/-- Reserved opcodes between the families, and reserved bits, are refused by name (R93, R94). -/
theorem test_decode_refuses :
    decode 0x00000007 = .error .reservedOpcode ∧ decode 0x00000017 = .error .reservedOpcode ∧
    decode 0x000000FF = .error .reservedOpcode ∧ decode 0x00000100 = .error .reservedBits ∧
    decode 0x00001016 = .error .reservedBits ∧ decode 0x80000021 = .error .reservedBits := by decide

theorem test_decodeTableWord :
    decodeTableWord 32 0x21 = some .encryptBlock ∧ decodeTableWord 8 0xF16 = some (.addRoundKey 0) := by decide

/-- R101 prints the writes of `wrblk BLK_IN`. -/
theorem test_wrblk_transfers :
    (lineWrBlk .blkIn (hexBytes 16 0x3243f6a8885a308d313198a2e0370734)).map HostLine.transfers =
      [[.write 0x080 0x3243F6A8 0b1111], [.write 0x084 0x885A308D 0b1111], [.write 0x088 0x313198A2 0b1111],
       [.write 0x08C 0xE0370734 0b1111]] := by decide +kernel

/-- Program P4 prints the last of the writes of `wrbuf IN` with 17 bytes: unused lanes 0, then IN_LEN. -/
theorem test_wrbuf_last :
    ((lineWrBuf (hexBytes 17 0x6bc1bee22e409f96e93d7e117393172aae)).drop 4).map HostLine.transfers =
      [[.write 0x1010 0xAE000000 0b1111], [.write 0x038 0x00000011 0b1111]] := by decide +kernel

/-! ## Byte and word commands (95 section 2.1 and 2.2) -/

theorem test_nop_clears_err : (after .nop { State.reset with err := .paddingError }).map (fun t => (t.err, t.done)) =
    some (.ok, true) := by decide

theorem test_gfXtime_reduces : (after .gfXtime { State.reset with opa := 0x80 }).map State.res = some 0x1B := by decide

theorem test_gfXtime_ignores_high : (after .gfXtime { State.reset with opa := 0xFFFFFF57 }).map State.res = some 0xAE := by
  decide

theorem test_gfMul_source : (after .gfMul { State.reset with opa := 0x57, opb := 0x83 }).map State.res = some 0xC1 := by
  decide

theorem test_gfMul_all_bits : (after .gfMul { State.reset with opa := 0x57, opb := 0xFF }).map State.res = some 0x1D := by
  decide

theorem test_sbox : (after .sbox { State.reset with opa := 0x10 }).map State.res = some 0xCA := by decide

theorem test_sbox_last : (after .sbox { State.reset with opa := 0xFF }).map State.res = some 0x16 := by decide

theorem test_invSbox : (after .invSbox { State.reset with opa := 0x52 }).map State.res = some 0x48 := by decide

theorem test_invSbox_zero : (after .invSbox { State.reset with opa := 0x63 }).map State.res = some 0x00 := by decide

theorem test_subWord : (after .subWord { State.reset with opa := 0xCF4F3C09 }).map (fun t => (t.res, t.opa)) =
    some (0x8A84EB01, 0xCF4F3C09) := by decide

theorem test_rotWord : (after .rotWord { State.reset with opa := 0x09CF4F3C }).map (fun t => (t.res, t.opa)) =
    some (0xCF4F3C09, 0x09CF4F3C) := by decide

/-! ## State commands (95 section 2.3) -/

theorem test_subBytes : (after .subBytes { State.reset with stateReg := blk 0x193de3bea0f4e22b9ac68d2ae9f84808 }).map
    State.stateReg = some (blk 0xd42711aee0bf98f1b8b45de51e415230) := by decide +kernel

theorem test_invSubBytes : (after .invSubBytes { State.reset with stateReg := blk 0xd42711aee0bf98f1b8b45de51e415230 }).map
    State.stateReg = some (blk 0x193de3bea0f4e22b9ac68d2ae9f84808) := by decide +kernel

theorem test_shiftRows : (after .shiftRows { State.reset with stateReg := blk 0x000102030405060708090a0b0c0d0e0f }).map
    State.stateReg = some (blk 0x00050a0f04090e03080d02070c01060b) := by decide +kernel

theorem test_invShiftRows : (after .invShiftRows { State.reset with stateReg := blk 0x000102030405060708090a0b0c0d0e0f }).map
    State.stateReg = some (blk 0x000d0a0704010e0b0805020f0c090603) := by decide +kernel

theorem test_mixColumns : (after .mixColumns { State.reset with stateReg := blk 0xd4bf5d30e0b452aeb84111f11e2798e5 }).map
    State.stateReg = some (blk 0x046681e5e0cb199a48f8d37a2806264c) := by decide +kernel

theorem test_invMixColumns :
    (after .invMixColumns { State.reset with stateReg := blk 0x046681e5e0cb199a48f8d37a2806264c }).map State.stateReg =
      some (blk 0xd4bf5d30e0b452aeb84111f11e2798e5) := by decide +kernel

theorem test_addRoundKey_last : (after (.addRoundKey 10) (keyed .aes128 k128)).map State.stateReg =
    some (blk 0xd014f9a8c9ee2589e13f0cc8b6630ca6) := by decide +kernel

theorem test_addRoundKey_bad_round : (after (.addRoundKey 11) (keyed .aes128 k128)).map (fun t => (t.err, t.stateReg)) =
    some (.badRound, blk 0) := by decide +kernel

/-! ## Key schedule and block cipher (95 section 2.4 and 2.5) -/

theorem test_keyExpand_128 : (after .keyExpand (keyState 16 k128)).map (fun t => (t.rk[4], t.rk[43], t.rk[44], rkInfoWord t)) =
    some (0xA0FAFE17, 0xB6630CA6, 0, 0x000A0401) := by decide +kernel

theorem test_keyExpand_256 : (after .keyExpand
      (keyState 32 0x603deb1015ca71be2b73aef0857d77811f352c073b6108d72d9810a30914dff4)).map
    (fun t => (t.rk[12], t.rk[59], rkInfoWord t)) = some (0xA8B09C1A, 0x706C631E, 0x000E0801) := by decide +kernel

theorem test_encryptBlock : (after .encryptBlock
      { keyed .aes128 k128 with blkIn := blk 0x3243f6a8885a308d313198a2e0370734 }).map State.blkOut =
    some (blk 0x3925841d02dc09fbdc118597196a0b32) := by decide +kernel

theorem test_encryptBlock_192 : (after .encryptBlock
      { keyed .aes192 0x000102030405060708090a0b0c0d0e0f1011121314151617 with
        blkIn := blk 0x00112233445566778899aabbccddeeff }).map State.blkOut =
    some (blk 0xdda97ca4864cdfe06eaf70a0ec0d7191) := by decide +kernel

theorem test_decryptBlock : (after .decryptBlock
      { keyed .aes128 k128 with blkIn := blk 0x3925841d02dc09fbdc118597196a0b32 }).map State.blkOut =
    some (blk 0x3243f6a8885a308d313198a2e0370734) := by decide +kernel

theorem test_decryptBlock_256 : (after .decryptBlock (keyed .aes256 0)).map State.blkOut =
    some (blk 0x67671ce1fa91ddeb0f8fbbb366b531b4) := by decide +kernel

/-! ## Modes (95 section 2.6 and 2.7) -/

theorem test_cbcEncrypt_unaligned : (after .cbcEncrypt
      (withMessage 17 0x6bc1bee22e409f96e93d7e117393172aae (ivA (keyed .aes128 k128)))).map
    (fun t => (t.outLen, outBytes 48 t)) = some (48, written 48
      0x000102030405060708090a0b0c0d0e0f7649abac8119b246cee98e9b12e9197d34d2d260173113008c28112c77668c86) := by
  decide +kernel

theorem test_cbcEncrypt_overflow : (after .cbcEncrypt { keyed .aes128 k128 with inLen := 4080 }).map State.err =
    some .lengthOverflow := by decide +kernel

theorem test_cbcDecrypt_unchecked_pad : (after .cbcDecrypt (withMessage 32
      0x000102030405060708090a0b0c0d0e0fc6c4e3d1dd60476263dbf33099acbe29 (keyed .aes128 k128))).map
    (fun t => (t.err, t.outLen, outBytes 16 t)) =
      some (.ok, 0, written 16 0x41414141414141414141414141414110) := by decide +kernel

theorem test_cbcDecrypt_padding_error : (after .cbcDecrypt (withMessage 32
      0x000102030405060708090a0b0c0d0e0fcf7827403708b0b521a0a8b5b1dc2ba7 (keyed .aes128 k128))).map
    (fun t => (t.err, t.outLen, byteAt t outBase)) = some (.paddingError, 0, none) := by decide +kernel

theorem test_ctrEncrypt_unaligned : (after .ctrEncrypt
      (withMessage 20 0x6bc1bee22e409f96e93d7e117393172aae2d8a57 (ivB (keyed .aes128 k128)))).map
    (fun t => (t.outLen, outBytes 36 t)) = some (36, written 36
      0xf0f1f2f3f4f5f6f7f8f9fafbfcfdfeff874d6191b620e3261bef6864990db6ce9806f66b) := by decide +kernel

theorem test_ctrEncrypt_empty : (after .ctrEncrypt (ivB (keyed .aes128 k128))).map (fun t => (t.outLen, outBytes 17 t)) =
    some (16, written 16 0xf0f1f2f3f4f5f6f7f8f9fafbfcfdfeff ++ [none]) := by decide +kernel

theorem test_ctrDecrypt_one_byte : (after .ctrDecrypt
      (withMessage 17 0xf0f1f2f3f4f5f6f7f8f9fafbfcfdfeff87 (keyed .aes128 k128))).map
    (fun t => (t.outLen, outBytes 2 t)) = some (1, [some 0x6b, none]) := by decide +kernel

theorem test_ctrDecrypt_short : (after .ctrDecrypt { keyed .aes128 k128 with inLen := 15 }).map State.err =
    some .invalidCiphertextLength := by decide +kernel

theorem test_ctrIncrement_wraps : (after .ctrIncrement
      { State.reset with blkIn := blk 0xffffffffffffffffffffffffffffffff }).map State.blkOut = some (blk 0) := by decide

theorem test_ctrIncrement_two_bytes : (after .ctrIncrement
      { State.reset with blkIn := blk 0x1212121212121212121212121212ffff }).map State.blkOut =
    some (blk 0x12121212121212121212121212130000) := by decide

/-! ## Witnesses: encoding, steps, the invariant -/

theorem witness_DecodeEncodeAgree : (Instr.addRoundKey 15).wellFormed = true ∧ (Instr.addRoundKey 0).wellFormed = true ∧
    encode (.addRoundKey 15) = 0x00000F16 := by decide

theorem witness_EncodeDecodeAgree : decode 0x00000F16 = .ok (.addRoundKey 15) ∧ decode 0x00000034 = .ok .ctrIncrement := by
  decide

theorem witness_LegalWords : (∃ i, decode 0x00000F16 = .ok i) ∧ (¬ ∃ i, decode 0x00000007 = .ok i) ∧
    (¬ ∃ i, decode 0x00001016 = .ok i) ∧ State.busy State.reset = false ∧
    (inFlight 0x00001016).latched = some 0x00001016 := by
  refine ⟨⟨.addRoundKey 15, by decide⟩, ?_, ?_, rfl, rfl⟩
  · rintro ⟨i, h⟩; have : decode 0x00000007 = .error .reservedOpcode := by decide
    rw [this] at h; cases h
  · rintro ⟨i, h⟩; have : decode 0x00001016 = .error .reservedBits := by decide
    rw [this] at h; cases h

theorem witness_StepRunsTheTurn_command : (inFlight 0x00000021).latched = some 0x00000021 ∧
    decode 0x00000021 = .ok .encryptBlock ∧ (inFlight 0x00000021).turns = [] ∧
    (State.reset.withFetchWord 32 0x21).turns.head? = some .engine := by decide

theorem witness_StepRunsTheTurn_illegal : (inFlight 0x00000100).latched = some 0x00000100 ∧
    decode 0x00000100 = .error .reservedBits ∧ (inFlight 0x00000100).turns = [] := by decide

theorem witness_StepRunsTheTurn_others :
    ({ State.reset with turns := [.engine] }.latched = none ∧ { State.reset with turns := [.engine] }.turns.head? = some .engine) ∧
    { State.reset with turns := [.bus (.read 0x014)] }.turns.head? = some (.bus (.read 0x014)) ∧
    { State.reset with turns := [.program] }.turns.head? = some .program ∧
    { inFlight 0x21 with turns := [.reset] }.turns.head? = some .reset ∧
    (State.reset.latched = none ∧ State.reset.turns = []) := by decide

/-- A state that meets the invariant with memory written, and the write that led there, a step. -/
theorem witness_StepKeepsInvariant :
    Inv { State.reset with turns := [.bus (.write 0x1FFC 0x01020304 0b1111)] } ∧
    ∃ t, step { State.reset with turns := [.bus (.write 0x1FFC 0x01020304 0b1111)] } = .next t ∧
      byteAt t 0x1FFF = some 0x04 :=
  ⟨⟨by decide, rfl, rfl, by decide, rfl, rfl⟩, _, rfl, by decide⟩

/-- The host's placement of a command and the step that runs it. -/
theorem test_withFetchWord_runs : ∃ t, step (State.reset.withFetchWord 32 0x00000001) = .next t ∧ t.done = true ∧
    t.latched = none ∧ t.turns = [] := ⟨_, rfl, rfl, rfl, rfl⟩

theorem witness_CommandLeavesFlight : State.busy (inFlight 0x00000020) = true ∧
    State.busy { inFlight 0x00000020 with turns := [.program, .bus (.read 0x1000)] } = true := by decide

theorem witness_ScheduleIsImmutable_other : ∃ t, step (inFlight 0x00000000) = .next t ∧ t.rk = (inFlight 0).rk :=
  ⟨_, rfl, rfl⟩

theorem witness_ScheduleIsImmutable_reset : ∃ t, step { keyed .aes128 k128 with turns := [.reset] } = .next t ∧
    t.rk = Vector.replicate 60 0 ∧ t.rkInfo = none := ⟨_, rfl, rfl, rfl⟩

theorem witness_ScheduleIsImmutable_expand :
    ∃ t, step { keyState 16 k128 with latched := some 0x00000020 } = .next t ∧ t.rkInfo = some .aes128 ∧ t.err = .ok :=
  ⟨_, rfl, rfl, rfl⟩

/-! ## Witnesses: host transfers -/

theorem witness_RegisterMapAgrees :
    (offsetOf (.inWord 4095)).toNat = 0x1FFF ∧ (offsetOf (.outWord 4095)).toNat = 0x2FFF ∧ Config.bufBytesOk 32 ∧ Config.bufBytesOk 4096 ∧ RegName.mapped 32 (.inWord 28) = true ∧
    RegName.mapped 32 (.inWord 32) = false ∧ RegName.mapped 4096 (.outWord 4092) = true ∧
    RegName.mapped 4096 (.rk 59) = true ∧ aligned 0x01EC = true ∧ regAt 4096 0x01EC = some (.rk 59) ∧
    regAt 4096 0x2FFC = some (.outWord 4092) ∧ regAt 4096 0x01F0 = none ∧ regAt 32 0x1020 = none ∧
    regAt 4096 0x3000 = none ∧ regAt 4096 0x000C = none ∧ regAt 4096 0x00A0 = none := by decide +kernel

/-- The boundaries of what the map lists, for buffers of 32 bytes. -/
theorem witness_BusErrorsHaveNoEffect :
    ((0x1FF : Offset).toNat % 4 ≠ 0) ∧ (0b0111 : BitVec 4) ≠ 0b1111 ∧
    (hostWrite 0x1FF 1 0b1111 (State.resetWith 32)).hostFault = true ∧
    (hostWrite 0x020 1 0b0111 (State.resetWith 32)).opa = 0 ∧
    (hostWrite 0x01F0 1 0b1111 (State.resetWith 32)).resp = some .error ∧
    (hostWrite 0x1020 1 0b1111 (State.resetWith 32)).resp = some .error ∧
    (hostWrite 0x2020 1 0b1111 (State.resetWith 32)).resp = some .error ∧
    (hostWrite 0x01EC 1 0b1111 (State.resetWith 32)).resp = some .okayWrite ∧
    (hostWrite 0x101C 1 0b1111 (State.resetWith 32)).resp = some .okayWrite ∧
    (hostWrite 0x201C 1 0b1111 (State.resetWith 32)).resp = some .okayWrite := by decide +kernel

theorem witness_IdentificationRegisters : Config.bufBytesOk State.reset.bufBytes ∧ State.busy State.reset = false ∧
    (0x008 : Offset) ∈ ([0x000, 0x004, 0x008] : List Offset) ∧ capsWord State.reset = 0x00001000 := by decide

theorem witness_IssueLatchesTheCommand : State.busy State.reset = false ∧ State.busy (inFlight 0x21) = true := by decide

/-- The vector of 95 section 2.8: a write while busy is discarded and sets OVR. -/
theorem witness_BusyWritesAreDiscarded : State.busy (inFlight 0x21) = true ∧ aligned 0x020 = true ∧
    regAt (inFlight 0x21).bufBytes 0x020 = some .opa ∧ (hostWrite 0x020 0x57 0b1111 (inFlight 0x21)).opa = 0 ∧
    (hostWrite 0x020 0x57 0b1111 (inFlight 0x21)).ovr = true := by decide +kernel

theorem witness_StatusWriteOneToClear : (0x00000002 : Word).getLsbD 1 = true ∧
    (hostWrite 0x014 0x00000004 0b1111 { State.reset with done := true, ovr := true }).done = true ∧
    (hostWrite 0x014 0x00000004 0b1111 { State.reset with done := true, ovr := true }).ovr = false ∧
    (after .nop (inFlight 0)).map (fun t => (hostWrite 0x014 0x00000002 0b1111 t).done) = some false ∧
    (after .nop (hostWrite 0x014 0x00000002 0b1111 (inFlight 0))).map State.done = some true := by decide +kernel

theorem witness_ReadOnlyWritesAreIgnored : State.busy State.reset = false ∧ Config.bufBytesOk State.reset.bufBytes ∧
    RegName.mapped State.reset.bufBytes (.outWord 4092) = true ∧ RegName.writable (.outWord 4092) = false ∧
    RegName.mapped State.reset.bufBytes (.rk 0) = true ∧ RegName.writable (.rk 0) = false := by decide

/-- The status words of 95 section 2.8. -/
theorem witness_StatusAndRkinfoFields :
    State.reset.rkInfo = none ∧ { State.reset with rkInfo := some .aes128 }.rkInfo = some .aes128 ∧
    { State.reset with rkInfo := some .aes192 }.rkInfo = some .aes192 ∧
    { State.reset with rkInfo := some .aes256 }.rkInfo = some .aes256 ∧
    statusWord { State.reset with done := true, err := .illegalCommand, ovr := true } = 0x00000806 ∧
    statusWord { inFlight 0x21 with err := .paddingError } = 0x00000401 := by decide

/-- Host reads of STATUS while busy and of CTRL with IE set. -/
theorem witness_StatusAndRkinfoFields_reads :
    (∃ t, hostRead 0x014 { inFlight 0x21 with ovr := true } = .ok (0x00000005, t)) ∧
    ∃ t, hostRead 0x010 { State.reset with ie := true } = .ok (0x00000001, t) := ⟨⟨_, rfl⟩, _, rfl⟩

theorem witness_WriteThenReadBack : State.busy State.reset = false ∧ Config.bufBytesOk State.reset.bufBytes ∧
    RegName.mapped State.reset.bufBytes (.inWord 4092) = true ∧ RegName.writable (.inWord 4092) = true ∧
    RegName.mapped State.reset.bufBytes (.key 7) = true ∧ RegName.writable (.key 7) = true := by decide

theorem witness_WriteLeavesTheOthers : State.busy State.reset = false ∧ Config.bufBytesOk State.reset.bufBytes ∧
    RegName.mapped State.reset.bufBytes (.inWord 0) = true ∧ RegName.writable (.inWord 0) = true ∧
    RegName.mapped State.reset.bufBytes (.inWord 4) = true ∧ RegName.inWord 4 ≠ .inWord 0 ∧
    (0x1004 < inBase + 0 ∨ inBase + 0 + 4 ≤ 0x1004) := by decide

theorem witness_ReadsHaveNoSideEffect_idle : hostRead 0x034 State.reset =
    .ok (0, { State.reset with resp := some (.okayRead 0) }) := rfl

theorem witness_ReadsHaveNoSideEffect_busy : ∃ v t, hostRead 0x028 (inFlight 0x21) = .ok (v, t) ∧
    State.busy (inFlight 0x21) = true ∧ regAt (inFlight 0x21).bufBytes 0x028 = some .res ∧ RegName.isResult .res = true :=
  ⟨_, _, rfl, rfl, rfl, rfl⟩

theorem witness_ReadsWhileBusy : State.busy (inFlight 0x21) = true ∧ Config.bufBytesOk (inFlight 0x21).bufBytes ∧
    RegName.mapped (inFlight 0x21).bufBytes (.outWord 0) = true ∧ RegName.mapped (inFlight 0x21).bufBytes .status = true ∧
    regWord .status (inFlight 0x21) = .ok 0x00000001 := by decide

theorem witness_UnwrittenBytesFault_word :
    Config.bufBytesOk State.reset.bufBytes ∧ RegName.mapped State.reset.bufBytes (.inWord 4092) = true ∧
    byteAt State.reset (inBase + 4092 + 3) = none ∧ RegName.mapped State.reset.bufBytes (.outWord 0) = true ∧
    State.busy State.reset = false ∧ byteAt { State.reset with mem := [(0x2000, 0)] } (outBase + 0 + 1) = none ∧
    ∀ k, k < 4 → byteAt { State.reset with mem := memWriteWord 0x1000 5 [] } (inBase + 0 + k) ≠ none := by decide

theorem witness_UnwrittenBytesFault_command :
    { keyed .aes128 k128 with inLen := 32 }.rkInfo = some .aes128 ∧
    ¬ inputWritten { keyed .aes128 k128 with inLen := 32 } { keyed .aes128 k128 with inLen := 32 }.inLen.toNat ∧
    (32 : Word).toNat + 32 - (32 : Word).toNat % 16 ≤ (keyed .aes128 k128).bufBytes ∧ 16 < (32 : Word).toNat ∧
    (32 : Word).toNat % 16 = 0 :=
  ⟨rfl, fun h => h 0 (by decide) rfl, by decide, by decide, by decide⟩

theorem witness_OperandsStableInFlight : State.busy (inFlight 0x21) = true ∧
    (∃ t, transfer (.write 0x020 0x57 0b1111) (inFlight 0x21) = .next t ∧ t.ovr = true) ∧
    ∃ t, programStep { inFlight 0x21 with program := [.wr .opa 0x57] } = .next t ∧ t.pos = 1 :=
  ⟨rfl, ⟨_, rfl, by decide⟩, _, rfl, by decide⟩

theorem witness_HostLinesMove_copy :
    { State.reset with program := [.copy .opa .caps] }.program[0]? = some (.copy .opa .caps) ∧ State.reset.held = none ∧
    ∃ s', hostRead (offsetOf .caps) { State.reset with program := [.copy .opa .caps] } = .ok (0x00001000, s') :=
  ⟨rfl, rfl, _, rfl⟩

theorem witness_HostLinesMove_poll :
    { State.reset with program := [.poll .status 1 0, .bnz .status 0xF00 7] }.program[0]? = some (.poll .status 1 0) ∧
    (∃ s', hostRead (offsetOf .status) { State.reset with program := [.poll .status 1 0, .bnz .status 0xF00 7] } =
      .ok (0, s')) ∧
    ∃ t, programStep { State.reset with program := [.poll .status 1 0, .bnz .status 0xF00 7] } = .next t ∧ t.pos = 1 ∧
      t.program[t.pos]? = some (.bnz .status 0xF00 7) :=
  ⟨rfl, ⟨_, rfl⟩, _, rfl, rfl, rfl⟩

/-- A copy into CMD issues the value read: both of its steps. -/
theorem witness_HostLinesMove_copy_cmd :
    ∃ t u, programStep { State.reset with program := [.copy .cmd .opa], opa := 0x21 } = .next t ∧ t.held = some 0x21 ∧
      programStep t = .next u ∧ u.latched = some 0x21 ∧ u.pos = 1 := ⟨_, _, rfl, rfl, rfl, rfl, rfl⟩

/-- A poll that does not fit stays on its line. -/
theorem witness_HostLinesMove_poll_stays :
    ∃ t, programStep { inFlight 0x21 with program := [.poll .status 1 0] } = .next t ∧ t.pos = 0 := ⟨_, rfl, rfl⟩

/-- A bnz goes by a `rd` two lines before it, with a line between; of the other name, never read, nothing is recorded. -/
theorem witness_HostLinesMove_bnz :
    ∃ t u w, programStep { State.reset with program := [.rd .caps, .wr .opa 1, .bnz .caps 0x1000 9] } = .next t ∧
      entryGet (offsetOf .caps).toNat t.lastReads = some 0x00001000 ∧ programStep t = .next u ∧
      u.program[u.pos]? = some (.bnz .caps 0x1000 9) ∧ programStep u = .next w ∧ w.pos = 9 ∧
      entryGet (offsetOf .opa).toNat u.lastReads = none :=
  ⟨_, _, _, rfl, rfl, rfl, rfl, rfl, rfl, rfl⟩

theorem witness_HostLinesMove_unread :
    { State.reset with program := [.bnz .opa 1 9] }.program[0]? = some (.bnz .opa 1 9) ∧
    entryGet (offsetOf .opa).toNat State.reset.lastReads = none := ⟨rfl, rfl⟩

/-- A `cmd`, a `jmp` over a line and a `halt`, one after another. -/
theorem witness_HostLinesMove_control :
    ∃ t u w, programStep { State.reset with program := [.cmd .sbox, .jmp 3, .wr .opa 1, .halt, .wr .opb 1] } = .next t ∧
      t.latched = some 0x03 ∧ programStep t = .next u ∧ u.program[u.pos]? = some .halt ∧
      programStep u = .next w ∧ programEnded w = true ∧ w.opa = 0 ∧ w.opb = 0 :=
  ⟨_, _, _, rfl, rfl, rfl, rfl, rfl, rfl, rfl, rfl⟩

theorem witness_HostLinesMove_write :
    { State.reset with program := [.wr .keylen 16] }.program[0]? = some (.wr .keylen 16) := rfl

/-! ## Witnesses: every command -/

theorem witness_EveryCommandCompletes : isMode .cbcEncrypt = true ∧
    inputWritten (withMessage 1 0x6b State.reset) (withMessage 1 0x6b State.reset).inLen.toNat ∧ isMode .nop = false := by
  refine ⟨rfl, fun k hk => ?_, rfl⟩
  have hk' : k < 1 := hk
  obtain rfl : k = 0 := by omega
  decide

theorem witness_ExecuteReadsOnlyTheDatapath :
    datapath State.reset = datapath { State.reset with ie := true, done := true, err := .badRound, draws := 7 } ∧
    (∃ t, exec .nop State.reset = .next t) ∧
    ∃ f, exec .ctrEncrypt { keyed .aes128 k128 with inLen := 1 } = .fault f := ⟨rfl, ⟨_, rfl⟩, _, rfl⟩

theorem witness_ErrorCompletionsArePrecise : ∃ t, exec .keyExpand { State.reset with keylen := 20, ie := true } = .next t ∧
    t.err = .invalidKey ∧ irq t = true := ⟨_, rfl, rfl, rfl⟩

theorem witness_ResultCodesOfCommands : ∃ t, exec .decryptBlock State.reset = .next t ∧ t.err = .noKey := ⟨_, rfl, rfl⟩

theorem witness_NoKeyIsRaised : State.reset.rkInfo = none ∧ (keyed .aes192 0).rkInfo = some .aes192 ∧
    (∃ t, exec .encryptBlock (keyed .aes192 0) = .next t) ∧ (∃ t, exec .nop State.reset = .next t) ∧
    Instr.ctrDecrypt ∈ [Instr.encryptBlock, .decryptBlock, .cbcEncrypt, .cbcDecrypt, .ctrEncrypt, .ctrDecrypt] ∧
    Instr.nop ∈ [Instr.nop, .gfXtime, .gfMul, .sbox, .invSbox, .subWord, .rotWord, .subBytes, .invSubBytes, .shiftRows,
      .invShiftRows, .mixColumns, .invMixColumns, .keyExpand, .ctrIncrement] :=
  ⟨rfl, rfl, ⟨_, rfl⟩, ⟨_, rfl⟩, by decide, by decide⟩

/-- The boundaries of 95 section 2.6 and 2.7, with buffers of 4096 bytes: the greatest lengths accepted and the least
refused, in each command. -/
theorem witness_LengthErrorsAreRaised : (keyed .aes128 k128).rkInfo = some .aes128 ∧
    ¬ ((4079 : Word).toNat + 32 - (4079 : Word).toNat % 16 > 4096) ∧ (4080 : Word).toNat + 32 - (4080 : Word).toNat % 16 > 4096 ∧
    (4097 : Word).toNat > 4096 ∧ (4096 : Word).toNat ≤ 4096 ∧ (4081 : Word).toNat + 16 > 4096 ∧
    ¬ ((4080 : Word).toNat + 16 > 4096) ∧ (16 : Word).toNat ≤ 16 ∧ (31 : Word).toNat % 16 ≠ 0 ∧ (15 : Word).toNat < 16 ∧
    ¬ ((32 : Word).toNat % 16 ≠ 0 ∨ (32 : Word).toNat ≤ 16) := by decide +kernel

theorem witness_LengthErrors_codes :
    [(15, Instr.ctrDecrypt), (16, .cbcDecrypt), (17, .cbcDecrypt), (31, .cbcDecrypt), (4112, .cbcDecrypt), (4097, .ctrDecrypt),
      (4081, .ctrEncrypt), (4080, .cbcEncrypt)].map
      (fun p => (after p.2 { keyed .aes128 0 with inLen := p.1 }).map State.err) =
    [some .invalidCiphertextLength, some .invalidCiphertextLength, some .invalidCiphertextLength,
      some .invalidCiphertextLength, some .lengthOverflow, some .lengthOverflow, some .lengthOverflow,
      some .lengthOverflow] := by decide +kernel

/-- DONE rises in a step that completes an illegal word, from a state with DONE 0. -/
theorem witness_InterruptLine_step : (inFlight 0x00000007).done = false ∧ (inFlight 0x00000007).latched = some 0x00000007 ∧
    (∃ t, engineStep (inFlight 0x00000007) = .next t ∧ t.done = true) ∧
    ∃ t, step (inFlight 0x00000007) = .next t ∧ t.done = true ∧ t.err = .illegalCommand :=
  ⟨rfl, rfl, ⟨_, rfl, rfl⟩, _, rfl, rfl, rfl⟩

theorem witness_InterruptLine : (∃ t, exec .nop { State.reset with ie := true } = .next t ∧ irq t = true) ∧
    State.busy { State.reset with ie := true, done := true } = false ∧
    ∃ v t, hostRead 0x014 { State.reset with ie := true, done := true } = .ok (v, t) :=
  ⟨⟨_, rfl, rfl⟩, rfl, _, _, rfl⟩

theorem witness_FrameOfRegisterCommands : (∃ t, exec .nop State.reset = .next t) ∧
    (∃ t, exec .sbox State.reset = .next t) ∧ Instr.sbox ∈ [Instr.gfXtime, .gfMul, .sbox, .invSbox, .subWord, .rotWord] ∧
    (∃ t, exec .mixColumns State.reset = .next t) ∧ (∃ t, exec (.addRoundKey 15) (keyed .aes128 0) = .next t) ∧
    ∃ t, exec .decryptBlock (keyed .aes256 0) = .next t :=
  ⟨⟨_, rfl⟩, ⟨_, rfl⟩, by decide, ⟨_, rfl⟩, ⟨_, rfl⟩, _, rfl⟩

theorem witness_FrameOfKeyExpand : ∃ t, exec .keyExpand (keyState 24 5) = .next t ∧ t.rkInfo = some .aes192 :=
  ⟨_, rfl, rfl⟩

/-- Each mode command gives a next state on a message of one byte or on its ciphertext. -/
theorem witness_FrameOfModeCommands :
    (after .cbcEncrypt (withMessage 1 0x6b (ivA (keyed .aes128 k128)))).isSome = true ∧
    (after .ctrEncrypt (withMessage 1 0x6b (ivB (keyed .aes128 k128)))).isSome = true ∧
    (after .cbcDecrypt (withMessage 32 0x000102030405060708090a0b0c0d0e0f2a7a633fad54e2146edcef80c59eebc6
      (keyed .aes128 k128))).map (fun t => (t.outLen, byteAt t outBase)) = some (1, some 0x6b) ∧
    (after .ctrDecrypt (withMessage 17 0xf0f1f2f3f4f5f6f7f8f9fafbfcfdfeff87 (keyed .aes128 k128))).isSome = true := by
  decide +kernel

theorem witness_EngineWritesOnlyOut : ∃ t, exec .ctrEncrypt (ivB (keyed .aes128 0)) = .next t ∧
    (0x1FFF < outBase ∨ outBase + (ivB (keyed .aes128 0)).bufBytes ≤ 0x1FFF) := ⟨_, rfl, by decide⟩

theorem witness_NopCompletes : (0x00000100 : Word).extractLsb' 0 8 = (0 : Byte) ∧ (0x00000100 : Word) ≠ 0 ∧
    (0x80000000 : Word).extractLsb' 0 8 = (0 : Byte) := by decide

theorem witness_FieldLaws : (0x53 : Byte) ≠ 0 ∧ gfMul 0xCA 0x53 = 0x01 ∧ gfMul 0x8D 0x02 = 0x01 := by decide

theorem witness_TablesAreAffineInverse : gfMul 0xCA 0x53 = 0x01 ∧ sbox 0x53 = 0xED ∧ sbox 0x00 = 0x63 := by decide

theorem witness_AddRoundKeyResult : (keyed .aes128 k128).rkInfo = some .aes128 ∧ 10 ≤ rkNr (keyed .aes128 k128) ∧
    rkNr (keyed .aes128 k128) < 11 ∧ (11 : Nat) ≤ 15 ∧ (0 : Nat) ≤ 15 ∧ 12 ≤ rkNr (keyed .aes192 0) ∧ rkNr (keyed .aes192 0) < 13 ∧
    14 ≤ rkNr (keyed .aes256 0) ∧ rkNr (keyed .aes256 0) < 15 ∧ State.reset.rkInfo = none := by decide +kernel

theorem witness_InverseStateCommandsUndo :
    (Instr.mixColumns, Instr.invMixColumns) ∈ [(Instr.subBytes, Instr.invSubBytes), (.invSubBytes, .subBytes),
      (.shiftRows, .invShiftRows), (.invShiftRows, .shiftRows), (.mixColumns, .invMixColumns), (.invMixColumns, .mixColumns)] ∧
    (keyed .aes256 0).rkInfo = some .aes256 ∧ 14 ≤ KeySize.nr .aes256 := ⟨by decide, rfl, by decide⟩

theorem witness_KeyExpandResult : (keyState 16 k128).keylen = 0x10 ∧ (keyState 24 5).keylen = 0x18 ∧
    (keyState 32 5).keylen = 0x20 ∧ (((0x18 : Word), 6, 12) ∈ [((0x10 : Word), 4, 10), (0x18, 6, 12), (0x20, 8, 14)]) ∧
    (0x00000110 : Word) ≠ 0x10 ∧ (0x00000110 : Word) ≠ 0x18 ∧ (0x00000110 : Word) ≠ 0x20 := by decide +kernel

theorem witness_BlockCommandsResult : (keyed .aes128 k128).rkInfo = some .aes128 ∧ (keyed .aes192 0).rkInfo = some .aes192 ∧
    (keyed .aes256 0).rkInfo = some .aes256 ∧ State.reset.rkInfo = none := ⟨rfl, rfl, rfl, rfl⟩

theorem witness_RoundsByHandEqualEncrypt : (keyed .aes128 k128).rkInfo = some .aes128 ∧
    { keyed .aes128 k128 with stateReg := blk 5, blkIn := blk 5 }.stateReg =
      { keyed .aes128 k128 with stateReg := blk 5, blkIn := blk 5 }.blkIn ∧ (roundCommands .aes128).length = 40 :=
  ⟨rfl, rfl, by decide⟩

theorem witness_DecryptUndoesEncrypt : { keyed .aes192 7 with blkIn := blk 9 }.rkInfo = some .aes192 := rfl

/-! ## Witnesses: modes -/

theorem bytesAt_withMessage (n v : Nat) (s : State) : bytesAt (withMessage n v s) inBase (hexBytes n v) := by
  intro k hk
  exact entryGet_memWrite_in (hexBytes n v) inBase k s.mem hk

/-- CBC_ENCRYPT: the empty message, and the longest that fits buffers of 48 bytes. -/
theorem witness_CbcEncryptResult : (keyed .aes128 k128).rkInfo = some .aes128 ∧
    (keyed .aes128 k128).inLen.toNat = ([] : List Byte).length ∧ 0 + 32 - 0 % 16 ≤ (keyed .aes128 k128).bufBytes ∧
    bytesAt (keyed .aes128 k128) inBase [] ∧ 31 + 32 - 31 % 16 ≤ 48 ∧ ¬ 32 + 32 - 32 % 16 ≤ 48 :=
  ⟨rfl, rfl, by decide, fun k hk => absurd hk (Nat.not_lt_zero k), by decide, by decide⟩

theorem witness_CbcEncryptResult_message : (withMessage 17 5 (keyed .aes128 k128)).inLen.toNat = (hexBytes 17 5).length ∧
    17 + 32 - 17 % 16 ≤ (withMessage 17 5 (keyed .aes128 k128)).bufBytes ∧
    bytesAt (withMessage 17 5 (keyed .aes128 k128)) inBase (hexBytes 17 5) :=
  ⟨by decide, by decide, bytesAt_withMessage _ _ _⟩

/-- CBC_DECRYPT: 32 bytes, the least length accepted; the padding it finds is good in one vector and bad in another
(`test_cbcDecrypt_unchecked_pad`, `test_cbcDecrypt_padding_error`). -/
theorem witness_CbcDecryptResult :
    (withMessage 32 0x000102030405060708090a0b0c0d0e0fcf7827403708b0b521a0a8b5b1dc2ba7 (keyed .aes128 k128)).rkInfo =
      some .aes128 ∧
    (hexBytes 32 0x000102030405060708090a0b0c0d0e0fcf7827403708b0b521a0a8b5b1dc2ba7).length = 32 ∧ 32 % 16 = 0 ∧ 16 < 32 ∧
    32 ≤ (keyed .aes128 k128).bufBytes ∧
    bytesAt (withMessage 32 0x000102030405060708090a0b0c0d0e0fcf7827403708b0b521a0a8b5b1dc2ba7 (keyed .aes128 k128)) inBase
      (hexBytes 32 0x000102030405060708090a0b0c0d0e0fcf7827403708b0b521a0a8b5b1dc2ba7) :=
  ⟨rfl, by decide, rfl, by decide, by decide, bytesAt_withMessage _ _ _⟩

/-- The round trips: a message that fits, and the state the copy of OUT into IN leads to. -/
theorem witness_CbcRoundTrip : Config.bufBytesOk (withMessage 0 0 (keyed .aes128 k128)).bufBytes ∧
    (withMessage 0 0 (keyed .aes128 k128)).rkInfo = some .aes128 ∧
    (∃ t, exec .cbcEncrypt (ivA (keyed .aes128 k128)) = .next t ∧
      { t with mem := [] }.rkInfo = some .aes128 ∧ { t with mem := [] }.rk = (keyed .aes128 k128).rk ∧
      { t with inLen := t.outLen }.inLen = t.outLen) := ⟨by decide, rfl, _, rfl, rfl, rfl, rfl⟩

/-- A state that meets every premise on u: the same schedule and BUF_BYTES, and the vector's OUT copied into IN. -/
def cbcCopied : State :=
  withMessage 32 0x000102030405060708090a0b0c0d0e0fc84af0b613435d5d9182801a9bd9320b (keyed .aes128 k128)

theorem witness_CbcRoundTrip_copy : ∃ t, after .cbcEncrypt (ivA (keyed .aes128 k128)) = some t ∧
    cbcCopied.rkInfo = some .aes128 ∧ cbcCopied.rk = (ivA (keyed .aes128 k128)).rk ∧
    cbcCopied.bufBytes = (ivA (keyed .aes128 k128)).bufBytes ∧ cbcCopied.inLen = t.outLen ∧
    (∀ k, k < t.outLen.toNat → byteAt cbcCopied (inBase + k) = byteAt t (outBase + k)) :=
  ⟨_, rfl, rfl, rfl, rfl, by decide +kernel, by decide +kernel⟩

theorem witness_CtrResults : (ivB (keyed .aes128 k128)).inLen.toNat = ([] : List Byte).length ∧
    0 + 16 ≤ (keyed .aes128 k128).bufBytes ∧ 4080 + 16 ≤ (keyed .aes128 k128).bufBytes ∧
    (withMessage 17 9 (keyed .aes128 k128)).inLen.toNat = (hexBytes 17 9).length ∧ 16 ≤ (hexBytes 17 9).length ∧
    (hexBytes 17 9).length ≤ (withMessage 17 9 (keyed .aes128 k128)).bufBytes ∧
    bytesAt (withMessage 17 9 (keyed .aes128 k128)) inBase (hexBytes 17 9) ∧
    (withMessage 17 9 (keyed .aes128 k128)).rkInfo = some .aes128 :=
  ⟨rfl, by decide, by decide, by decide, by decide, by decide, bytesAt_withMessage _ _ _, rfl⟩

/-- A state that meets every premise on u, from the one-byte vector of CTR_ENCRYPT. -/
def ctrCopied : State := withMessage 17 0xf0f1f2f3f4f5f6f7f8f9fafbfcfdfeff87 (keyed .aes128 k128)

theorem witness_CtrRoundTrip_copy : ∃ t, after .ctrEncrypt (withMessage 1 0x6b (ivB (keyed .aes128 k128))) = some t ∧
    Config.bufBytesOk (withMessage 1 0x6b (ivB (keyed .aes128 k128))).bufBytes ∧ ctrCopied.rkInfo = some .aes128 ∧
    ctrCopied.rk = (withMessage 1 0x6b (ivB (keyed .aes128 k128))).rk ∧
    ctrCopied.bufBytes = (withMessage 1 0x6b (ivB (keyed .aes128 k128))).bufBytes ∧ ctrCopied.inLen = t.outLen ∧
    (∀ k, k < t.outLen.toNat → byteAt ctrCopied (inBase + k) = byteAt t (outBase + k)) :=
  ⟨_, rfl, by decide, rfl, rfl, rfl, by decide +kernel, by decide +kernel⟩

/-! ## Witnesses: transfers by number -/

/-- The last KEY word, the last IN word of buffers of 32 bytes, and the values a read finds. -/
theorem witness_TransfersReachTheirRegister :
    State.busy (State.resetWith 32) = false ∧ Config.bufBytesOk (State.resetWith 32).bufBytes ∧ 28 % 4 = 0 ∧
    28 < (State.resetWith 32).bufBytes ∧ (hostWrite 0x05C 5 0b1111 (State.resetWith 32)).key[7] = 5 ∧
    (hostWrite 0x07C 6 0b1111 (State.resetWith 32)).stateReg.q3 = 6 ∧
    byteAt (hostWrite 0x101C 0x01020304 0b1111 (State.resetWith 32)) 0x101F = some 0x04 ∧
    byteAt (hostWrite 0x1018 0x01020304 0b1111 (hostWrite 0x101C 0x05060708 0b1111 (State.resetWith 32))) 0x101C = some 5 ∧
    ((0x028 : Offset), (0 : Word)) ∈ ([(0x020, 0), (0x028, (State.resetWith 32).res)] : List (Offset × Word)) := by
  decide +kernel

end Sys2Proof.Tests
end

section
/-! PROOFS. What every step keeps: the lengths of the mode commands' results, what the completion of a command can store,
and the invariant of the machine through every event. -/

namespace Sys2Proof.Machine

/-! ## The lengths of the mode commands' results (R180 to R182, R191) -/

@[simp] theorem length_pad (m : List Byte) : (pad m).length = m.length + 16 - m.length % 16 := by
  simp only [pad, padLength, List.length_append, List.length_replicate]
  omega

@[simp] theorem length_cbcEncryptBlocks (w : Vector Word 60) (nr : Nat) (ps : List Block) :
    ∀ chain : Block, (cbcEncryptBlocks w nr chain ps).length = ps.length := by
  induction ps with
  | nil => intro chain; rfl
  | cons p ps ih => intro chain; simp [cbcEncryptBlocks, ih]

@[simp] theorem length_cbcDecryptBlocks (w : Vector Word 60) (nr : Nat) (cs : List Block) :
    ∀ chain : Block, (cbcDecryptBlocks w nr chain cs).length = cs.length := by
  induction cs with
  | nil => intro chain; rfl
  | cons c cs ih => intro chain; simp [cbcDecryptBlocks, ih]

@[simp] theorem length_ctrBlocks (w : Vector Word 60) (nr : Nat) (ds : List Block) :
    ∀ ctr : Block, (ctrBlocks w nr ctr ds).1.length = ds.length := by
  induction ds with
  | nil => intro ctr; rfl
  | cons d ds ih => intro ctr; simp [ctrBlocks, ih]

theorem length_cbcEncrypt (iv : Block) (m : List Byte) (w : Vector Word 60) (nr : Nat) :
    (cbcEncrypt iv m w nr).length = m.length + 32 - m.length % 16 := by
  simp only [cbcEncrypt, List.length_append, length_blockBytes, length_blocksBytes, length_cbcEncryptBlocks,
    length_fullBlocks, length_pad]
  omega

theorem length_cbcDecryptPadded (d : List Byte) (w : Vector Word 60) (nr : Nat) :
    (cbcDecryptPadded d w nr).length = 16 * ((d.length - 16) / 16) := by
  simp [cbcDecryptPadded]

@[simp] theorem length_ctrXcrypt (iv : Block) (d : List Byte) (w : Vector Word 60) (nr : Nat) :
    (ctrXcrypt iv d w nr).length = d.length := by
  simp only [ctrXcrypt, List.length_append, length_blocksBytes, length_ctrBlocks, length_fullBlocks,
    List.length_zipWith, length_tailBytes, length_blockBytes]
  omega

/-- KEY has enough words for a key of each size (R39). -/
@[simp] theorem length_keyCols_nk (s : State) (ks : KeySize) : (keyCols s (KeySize.nk ks)).length = KeySize.nk ks := by
  cases ks <;> simp [keyCols, KeySize.nk]

/-! ## What the completion of a command can do -/

/-- `Stored s u`: u is s with what one command stores in its destination, if anything (R207). -/
inductive Stored (s : State) : State → Prop
  | nothing : Stored s s
  | res (v : Word) : Stored s (setRes v s)
  | stateBlock (b : Block) : Stored s (setStateBlock b s)
  | blkOut (b : Block) : Stored s (setBlkOut b s)
  | schedule (ks : KeySize) (key : List Col) (hkey : key.length = KeySize.nk ks) :
      Stored s (setSchedule (scheduleMemory ks (keyExpansion ks key)) ks s)
  | out (bytes : List Byte) (len : Nat) (hfits : bytes.length ≤ s.bufBytes) : Stored s (writeOut bytes len s)

/-- `Completed i s t`: t ends command i on s, by an error completion that stores nothing (R210), or with ERR = OK over
what the command stores (R203). -/
inductive Completed (i : Instr) (s : State) : State → Prop
  | error {c : ResultCode} (hne : c ≠ .ok) (hraised : c ∈ possibleCodes i) : Completed i s (finish c s)
  | ok {u : State} (hstored : Stored s u) : Completed i s (finish .ok u)

variable {s t : State}

/-- A keyed command completes as it may when the rest of it does under every schedule (R216). -/
theorem withSchedule_completed {i : Instr} {rest : KeySize → Result} (h : withSchedule s rest = .next t)
    (hkeyed : .noKey ∈ possibleCodes i) (hrest : ∀ ks, rest ks = .next t → Completed i s t) : Completed i s t := by
  rcases withSchedule_eq s rest with ⟨-, e⟩ | ⟨ks, -, e⟩ <;> rw [e] at h
  · cases h; exact .error (by simp) hkeyed
  · exact hrest ks h

theorem withInput_next {n : Nat} {rest : List Byte → Result} (h : withInput n s rest = .next t) :
    ∃ bs, bs.length = n ∧ rest bs = .next t := by
  rcases withInput_eq n s rest with ⟨bs, hlen, -, e⟩ | ⟨k, -, -, e⟩ <;> rw [e] at h
  · exact ⟨bs, hlen, h⟩
  · cases h

theorem execAddRoundKey_completed {round : Nat} (h : execAddRoundKey round s = .next t) :
    Completed (.addRoundKey round) s t := by
  refine withSchedule_completed h (by simp [possibleCodes]) fun ks h => ?_
  split at h <;> cases h
  · exact .error (by simp) (by simp [possibleCodes])
  · exact .ok (.stateBlock _)

theorem execKeyExpand_completed (h : execKeyExpand s = .next t) : Completed .keyExpand s t := by
  unfold execKeyExpand at h
  split at h <;> cases h
  · exact .error (by simp) (by simp [possibleCodes])
  · exact .ok (.schedule _ _ (length_keyCols_nk s _))

theorem execEncryptBlock_completed (h : execEncryptBlock s = .next t) : Completed .encryptBlock s t := by
  refine withSchedule_completed h (by simp [possibleCodes]) fun ks h => ?_
  cases h; exact .ok (.blkOut _)

theorem execDecryptBlock_completed (h : execDecryptBlock s = .next t) : Completed .decryptBlock s t := by
  refine withSchedule_completed h (by simp [possibleCodes]) fun ks h => ?_
  cases h; exact .ok (.blkOut _)

/-- The second check of R183 is the one that makes IV and padded message fit OUT. -/
theorem execCbcEncrypt_completed (h : execCbcEncrypt s = .next t) : Completed .cbcEncrypt s t := by
  refine withSchedule_completed h (by simp [possibleCodes]) fun ks h => ?_
  dsimp only at h
  split at h
  · cases h; exact .error (by simp) (by simp [possibleCodes])
  · obtain ⟨m, hlen, h⟩ := withInput_next h
    cases h
    exact .ok (.out _ _ (by rw [length_cbcEncrypt]; omega))

theorem execCbcDecrypt_completed (h : execCbcDecrypt s = .next t) : Completed .cbcDecrypt s t := by
  refine withSchedule_completed h (by simp [possibleCodes]) fun ks h => ?_
  dsimp only at h
  split at h
  · cases h; exact .error (by simp) (by simp [possibleCodes])
  · split at h
    · cases h; exact .error (by simp) (by simp [possibleCodes])
    · obtain ⟨d, hlen, h⟩ := withInput_next h
      split at h <;> cases h
      · exact .error (by simp) (by simp [possibleCodes])
      · exact .ok (.out _ _ (by rw [length_cbcDecryptPadded]; omega))

theorem execCtrEncrypt_completed (h : execCtrEncrypt s = .next t) : Completed .ctrEncrypt s t := by
  refine withSchedule_completed h (by simp [possibleCodes]) fun ks h => ?_
  dsimp only at h
  split at h
  · cases h; exact .error (by simp) (by simp [possibleCodes])
  · obtain ⟨m, hlen, h⟩ := withInput_next h
    cases h
    exact .ok (.out _ _ (by rw [List.length_append, length_blockBytes, length_ctrXcrypt]; omega))

theorem execCtrDecrypt_completed (h : execCtrDecrypt s = .next t) : Completed .ctrDecrypt s t := by
  refine withSchedule_completed h (by simp [possibleCodes]) fun ks h => ?_
  dsimp only at h
  split at h
  · cases h; exact .error (by simp) (by simp [possibleCodes])
  · split at h
    · cases h; exact .error (by simp) (by simp [possibleCodes])
    · obtain ⟨d, hlen, h⟩ := withInput_next h
      cases h
      exact .ok (.out _ _ (by rw [length_ctrXcrypt, List.length_drop]; omega))

/-- Everything a command that gives a next state can do, all 22 of them (R98). -/
theorem exec_completed {i : Instr} (h : exec i s = .next t) : Completed i s t := by
  cases i with
  | nop => cases h; exact .ok .nothing
  | gfXtime | gfMul | sbox | invSbox | subWord | rotWord => cases h; exact .ok (.res _)
  | subBytes | invSubBytes | shiftRows | invShiftRows | mixColumns | invMixColumns =>
    cases h; exact .ok (.stateBlock _)
  | ctrIncrement => cases h; exact .ok (.blkOut _)
  | addRoundKey round => exact execAddRoundKey_completed h
  | keyExpand => exact execKeyExpand_completed h
  | encryptBlock => exact execEncryptBlock_completed h
  | decryptBlock => exact execDecryptBlock_completed h
  | cbcEncrypt => exact execCbcEncrypt_completed h
  | cbcDecrypt => exact execCbcDecrypt_completed h
  | ctrEncrypt => exact execCtrEncrypt_completed h
  | ctrDecrypt => exact execCtrDecrypt_completed h

/-- Code 2 is kept for the source's error and raised by nothing (R213). -/
theorem invalidBlockLength_notMem_possibleCodes (i : Instr) : .invalidBlockLength ∉ possibleCodes i := by
  cases i <;> simp [possibleCodes]

/-! ## The words of IN in the register map -/

theorem aligned_iff (off : Offset) : aligned off = true ↔ off.toNat % 4 = 0 := by
  simp [aligned, ← BitVec.toNat_inj]

theorem singleRegs_lookup_ne_inWord (n a : Nat) : singleRegs.lookup n ≠ some (.inWord a) := by
  intro h
  obtain ⟨before, after, hsplit, -⟩ := List.lookup_eq_some_iff.1 h
  have hmem : (n, RegName.inWord a) ∈ singleRegs := by simp [hsplit]
  simp [singleRegs] at hmem

theorem fileReg_ne_inWord (n a : Nat) : fileReg n ≠ some (.inWord a) := by
  simp [fileReg, Option.or_eq_some_iff]

/-- A word of IN is found only where it lies, within BUF_BYTES (R45, R61, R67). -/
theorem regAt_eq_inWord {n a : Nat} {off : Offset} (h : regAt n off = some (.inWord a)) :
    off.toNat = inBase + a ∧ a < n := by
  unfold regAt at h
  split at h
  · next r hr => cases h; exact absurd hr (singleRegs_lookup_ne_inWord _ _)
  · rcases Option.or_eq_some_iff.1 h with hfile | ⟨-, hbuf⟩
    · exact absurd hfile (fileReg_ne_inWord _ _)
    · unfold bufferReg at hbuf
      split at hbuf
      · next hin => simp only [Option.some.injEq, RegName.inWord.injEq] at hbuf; omega
      · split at hbuf <;> simp at hbuf

/-! ## The invariant through each update of the state -/

theorem scheduleHeld_congr (hinfo : t.rkInfo = s.rkInfo) (hrk : t.rk = s.rk) : scheduleHeld t ↔ scheduleHeld s := by
  simp only [scheduleHeld, hinfo, hrk]

/-- An update of fields that the invariant does not speak of keeps it: the six equations hold by computation. -/
theorem Inv.of_frame (hi : Inv s) (hbuf : t.bufBytes = s.bufBytes := by rfl) (hmem : t.mem = s.mem := by rfl)
    (herr : t.err = s.err := by rfl) (hinfo : t.rkInfo = s.rkInfo := by rfl) (hrk : t.rk = s.rk := by rfl)
    (hreads : t.lastReads = s.lastReads := by rfl) : Inv t where
  bufBytes := hbuf ▸ hi.bufBytes
  memWf := hmem ▸ hi.memWf
  memInBuffers := by rw [hbuf, hmem]; exact hi.memInBuffers
  err := herr ▸ hi.err
  schedule := (scheduleHeld_congr hinfo hrk).2 hi.schedule
  lastReads := hreads ▸ hi.lastReads

theorem Inv.finish {c : ResultCode} (hi : Inv s) (hc : c ≠ .invalidBlockLength) : Inv (finish c s) :=
  { hi with err := hc, schedule := (scheduleHeld_congr rfl rfl).2 hi.schedule }

/-- Bytes written within one of the two buffers keep the invariant (R73). -/
theorem Inv.withMem {m : List Host.Cell} (hi : Inv s) (hwf : Memory.wf m = true)
    (hin : Memory.inBuffers s.bufBytes m = true) : Inv { s with mem := m } :=
  { hi with memWf := hwf, memInBuffers := hin, schedule := (scheduleHeld_congr rfl rfl).2 hi.schedule }

theorem Inv.writeOut {bytes : List Byte} {len : Nat} (hi : Inv s) (hfits : bytes.length ≤ s.bufBytes) :
    Inv (writeOut bytes len s) :=
  have hin := Memory.inBuffers_memWrite_out bytes outBase s.mem hi.memInBuffers (Nat.le_refl _) (by omega)
  (hi.withMem (Memory.wf_memWrite bytes outBase s.mem hi.memWf) hin).of_frame

theorem Inv.setSchedule {ks : KeySize} {key : List Col} (hi : Inv s) (hkey : key.length = KeySize.nk ks) :
    Inv (setSchedule (scheduleMemory ks (keyExpansion ks key)) ks s) :=
  { hi with schedule := ⟨key, hkey, rfl⟩ }

theorem Inv.noteRead (off : Offset) (v : Word) (hi : Inv s) : Inv (noteRead off v s) :=
  { hi with
    schedule := (scheduleHeld_congr rfl rfl).2 hi.schedule
    lastReads := entriesWf_entryPut off.toNat v s.lastReads hi.lastReads }

/-- Reset keeps BUF_BYTES and the host's record of its reads, and the rest of the invariant holds of its values (R241). -/
theorem Inv.engineReset (hi : Inv s) : Inv (engineReset s) where
  bufBytes := hi.bufBytes
  memWf := rfl
  memInBuffers := rfl
  err := by simp
  schedule := rfl
  lastReads := hi.lastReads

/-! ## The invariant through completions, transfers and lines -/

theorem Inv.stored {u : State} (hi : Inv s) (h : Stored s u) : Inv u := by
  cases h with
  | nothing => exact hi
  | res v => exact hi.of_frame
  | stateBlock b => exact hi.of_frame
  | blkOut b => exact hi.of_frame
  | schedule ks key hkey => exact hi.setSchedule hkey
  | out bytes len hfits => exact hi.writeOut hfits

theorem Inv.completed {i : Instr} (hi : Inv s) (h : Completed i s t) : Inv t := by
  cases h with
  | error _ hraised => exact hi.finish fun hc => invalidBlockLength_notMem_possibleCodes i (hc ▸ hraised)
  | ok hstored => exact (hi.stored hstored).finish (by simp)

theorem Inv.engineStep (hi : Inv s) (h : engineStep s = .next t) : Inv t := by
  rcases engineStep_eq s with ⟨-, e⟩ | ⟨_, _, -, -, e⟩ | ⟨_, _, -, -, e⟩ <;> rw [e] at h
  · cases h; exact hi
  · exact hi.completed (exec_completed h)
  · cases h; exact hi.finish (by simp)

/-- An aligned word of IN lies whole within the buffer, since 4 divides BUF_BYTES (R11, R65). -/
theorem Inv.memWriteWord_in {off : Offset} {a : Nat} (v : Word) (hi : Inv s) (ha : aligned off = true)
    (hr : regAt s.bufBytes off = some (.inWord a)) : Inv { s with mem := memWriteWord (inBase + a) v s.mem } := by
  obtain ⟨hmod, -, -⟩ := hi.bufBytes
  obtain ⟨hoff, hlt⟩ := regAt_eq_inWord hr
  have hfits : inBase + a + 4 ≤ inBase + s.bufBytes := by
    have hbase : inBase % 4 = 0 := rfl
    rw [aligned_iff] at ha
    omega
  exact hi.withMem (Memory.wf_memWriteWord _ v s.mem hi.memWf)
    (Memory.inBuffers_memWrite_in _ _ s.mem hi.memInBuffers (by omega) hfits)

theorem Inv.storeReg {off : Offset} {r : RegName} (v : Word) (hi : Inv s) (ha : aligned off = true)
    (hr : regAt s.bufBytes off = some r) : Inv (storeReg r v s) := by
  cases r with
  | inWord a => exact hi.memWriteWord_in v ha hr
  | opa | opb | keylen | inLen => exact hi.of_frame
  | key i | iv i | state i | blkIn i => exact hi.of_frame
  | id | version | caps | ctrl | status | cmd | res | rkinfo | outLen => exact hi
  | blkOut i | rk i | outWord a => exact hi

theorem Inv.writeReg {off : Offset} {r : RegName} (v : Word) (hi : Inv s) (ha : aligned off = true)
    (hr : regAt s.bufBytes off = some r) : Inv (writeReg r v s) := by
  rcases writeReg_eq r v s with ⟨-, e⟩ | ⟨-, e⟩ | ⟨-, -, -, e⟩ | ⟨-, -, e⟩ | ⟨-, -, -, -, e⟩ <;> rw [e]
  · exact hi.of_frame
  · exact hi.of_frame
  · exact hi.of_frame
  · exact hi.of_frame
  · exact hi.storeReg v ha hr

theorem Inv.hostWrite (off : Offset) (v : Word) (strb : BitVec 4) (hi : Inv s) : Inv (hostWrite off v strb s) := by
  rcases hostWrite_eq off v strb s with ⟨-, e⟩ | ⟨r, ha, -, hr, e⟩ <;> rw [e]
  · exact hi.of_frame
  · exact (hi.writeReg v ha hr).of_frame

theorem Inv.hostRead {off : Offset} {v : Word} (hi : Inv s) (h : hostRead off s = .ok (v, t)) : Inv t := by
  rw [hostRead_state h]
  exact hi.of_frame

theorem Inv.transfer {tr : Transfer} (hi : Inv s) (h : transfer tr s = .next t) : Inv t := by
  rcases transfer_next h with ⟨off, v, strb, -, rfl⟩ | ⟨off, v, -, hread⟩
  · exact hi.hostWrite off v strb
  · exact hi.hostRead hread

/-- A line that reads keeps the invariant when what follows the read does. -/
theorem Inv.programRead {r : RegName} {rest : Word → State → State} (hi : Inv s)
    (h : programRead r s rest = .next t) (hrest : ∀ (v : Word) (u : State), Inv u → Inv (rest v u)) : Inv t := by
  obtain ⟨v, u, hread, rfl⟩ := programRead_next h
  exact hrest v _ ((hi.hostRead hread).noteRead _ v)

theorem Inv.branch (r : RegName) (mask : Word) (target : Nat) (hi : Inv s) : Inv (branch r mask target s) := by
  unfold Machine.branch
  split <;> split <;> exact hi.of_frame

theorem Inv.runLine {l : HostLine} (hi : Inv s) (h : runLine l s = .next t) : Inv t := by
  cases l with
  | wr r v => cases h; exact (hi.hostWrite _ v _).of_frame
  | rd r => exact hi.programRead h fun _ _ hu => hu.of_frame
  | cmd i => cases h; exact (hi.hostWrite _ (encode i) _).of_frame
  | poll r mask value =>
    simp only [Machine.runLine] at h
    refine hi.programRead h fun v u hu => ?_
    split
    · exact hu.of_frame
    · exact hu
  | bnz r mask target => cases h; exact hi.branch r mask target
  | jmp target => cases h; exact hi.of_frame
  | copy dst src =>
    simp only [Machine.runLine] at h
    split at h
    · exact hi.programRead h fun _ _ hu => hu.of_frame
    · next v _ => cases h; exact (hi.hostWrite _ v _).of_frame
  | halt => cases h; exact hi.of_frame

theorem Inv.programStep (hi : Inv s) (h : programStep s = .next t) : Inv t := by
  unfold Machine.programStep at h
  split at h
  · cases h; exact hi
  · exact hi.runLine h

theorem Inv.takeTurn {turn : Turn} (hi : Inv s) (h : takeTurn turn s = .next t) : Inv t := by
  cases turn with
  | engine => exact hi.engineStep h
  | bus tr => exact hi.transfer h
  | program => exact hi.programStep h
  | reset => cases h; exact hi.engineReset

theorem Inv.step (hi : Inv s) (h : step s = .next t) : Inv t := by
  rcases step_eq s with ⟨-, -, e⟩ | ⟨-, -, e⟩ | ⟨turn, rest, -, e⟩ <;> rw [e] at h
  · exact hi.engineStep h
  · exact hi.programStep h
  · exact Inv.takeTurn (s := dropTurn s) hi.of_frame h

/-- Settles O6: each turn a step can take keeps the invariant (`Inv.step`). -/
theorem stepKeepsInvariant : Obligations.StepKeepsInvariant := fun _ _ => Inv.step

end Sys2Proof.Machine
end

section
/-! PROOFS. What a host event does to the engine, and the round-key memory through every event (R48). -/

namespace Sys2Proof.Machine

variable {s t u : State}

/-! ## What a transfer and the host program's turn can do -/

/-- From s to t at most the host program's own fields, the response ports and the model's records differ (R99, logs 4
and 5). -/
def HostFieldsOnly (s t : State) : Prop :=
  t = { s with
    resp := t.resp, pos := t.pos, lastReads := t.lastReads, held := t.held, hostFault := t.hostFault, draws := t.draws }

theorem HostFieldsOnly.refl (s : State) : HostFieldsOnly s s := rfl

theorem HostFieldsOnly.trans (h : HostFieldsOnly s t) (h' : HostFieldsOnly t u) : HostFieldsOnly s u := by
  rw [HostFieldsOnly, h', h]

theorem HostFieldsOnly.nextLine (s : State) : HostFieldsOnly s (nextLine s) := rfl

theorem HostFieldsOnly.gotoLine (n : Nat) (s : State) : HostFieldsOnly s (gotoLine n s) := rfl

theorem HostFieldsOnly.setHeld (v : Option Word) (s : State) : HostFieldsOnly s (setHeld v s) := rfl

theorem HostFieldsOnly.noteRead (off : Offset) (v : Word) (s : State) : HostFieldsOnly s (noteRead off v s) := rfl

theorem HostFieldsOnly.hostRead {off : Offset} {v : Word} (h : hostRead off s = .ok (v, t)) : HostFieldsOnly s t := by
  rw [HostFieldsOnly, hostRead_state h]

theorem HostFieldsOnly.branch (r : RegName) (mask : Word) (target : Nat) (s : State) :
    HostFieldsOnly s (branch r mask target s) := by
  unfold Machine.branch
  split <;> split <;> rfl

/-- What a host event does to the engine: at most one write transfer (R74, R99). -/
inductive HostEvent (s t : State) : Prop
  | quiet (h : HostFieldsOnly s t)
  | write (off : Offset) (v : Word) (strb : BitVec 4) (h : HostFieldsOnly (hostWrite off v strb s) t)

theorem HostEvent.transfer {tr : Transfer} (h : transfer tr s = .next t) : HostEvent s t := by
  rcases transfer_next h with ⟨off, v, strb, -, rfl⟩ | ⟨off, v, -, hread⟩
  · exact .write off v strb (.refl _)
  · exact .quiet (.hostRead hread)

/-- A line that reads is quiet when what follows the read is. -/
theorem HostEvent.programRead {r : RegName} {rest : Word → State → State} (h : programRead r s rest = .next t)
    (hrest : ∀ (v : Word) (u : State), HostFieldsOnly u (rest v u)) : HostEvent s t := by
  obtain ⟨v, u, hread, rfl⟩ := programRead_next h
  exact .quiet ((HostFieldsOnly.hostRead hread).trans ((HostFieldsOnly.noteRead _ v u).trans (hrest v _)))

theorem HostEvent.runLine {l : HostLine} (h : runLine l s = .next t) : HostEvent s t := by
  cases l with
  | wr r v => cases h; exact .write _ v _ (.nextLine _)
  | rd r => exact .programRead h fun _ u => .nextLine u
  | cmd i => cases h; exact .write _ (encode i) _ (.nextLine _)
  | poll r mask value =>
    simp only [Machine.runLine] at h
    refine .programRead h fun v u => ?_
    split
    · exact .nextLine u
    · exact .refl u
  | bnz r mask target => cases h; exact .quiet (.branch r mask target s)
  | jmp target => cases h; exact .quiet (.gotoLine target s)
  | copy dst src =>
    simp only [Machine.runLine] at h
    split at h
    · exact .programRead h fun v u => .setHeld (some v) u
    · next v _ => cases h; exact .write _ v _ ((HostFieldsOnly.setHeld none _).trans (.nextLine _))
  | halt => cases h; exact .quiet (.gotoLine _ s)

theorem HostEvent.programStep (h : programStep s = .next t) : HostEvent s t := by
  unfold Machine.programStep at h
  split at h
  · cases h; exact .quiet (.refl s)
  · exact .runLine h

/-! ## The round-key memory through each event -/

/-- RK with RKINFO (R36, R44). -/
def roundKeys (s : State) : Vector Word 60 × Option KeySize := (s.rk, s.rkInfo)

@[simp] theorem roundKeys_storeReg (r : RegName) (v : Word) (s : State) :
    roundKeys (storeReg r v s) = roundKeys s := by
  cases r <;> rfl

@[simp] theorem roundKeys_writeReg (r : RegName) (v : Word) (s : State) :
    roundKeys (writeReg r v s) = roundKeys s := by
  rcases writeReg_eq r v s with ⟨-, e⟩ | ⟨-, e⟩ | ⟨-, -, -, e⟩ | ⟨-, -, e⟩ | ⟨-, -, -, -, e⟩ <;> rw [e]
  · rfl
  · rfl
  · rfl
  · rfl
  · exact roundKeys_storeReg r v s

@[simp] theorem roundKeys_hostWrite (off : Offset) (v : Word) (strb : BitVec 4) (s : State) :
    roundKeys (hostWrite off v strb s) = roundKeys s := by
  rcases hostWrite_eq off v strb s with ⟨-, e⟩ | ⟨r, -, -, -, e⟩ <;> rw [e]
  · rfl
  · exact roundKeys_writeReg r v s

/-- Only commands reach the round-key memory: no transfer and no line of the host program does (R44, R70). -/
theorem HostEvent.roundKeys (h : HostEvent s t) : roundKeys t = roundKeys s := by
  cases h with
  | quiet h => rw [h]; rfl
  | write off v strb h => rw [h]; exact roundKeys_hostWrite off v strb s

/-- If r gives a next state, it holds the round keys of s. -/
def KeepsRoundKeys (s : State) (r : Result) : Prop := ∀ t, r = .next t → roundKeys t = roundKeys s

theorem KeepsRoundKeys.next (h : roundKeys t = roundKeys s) : KeepsRoundKeys s (.next t) := by
  rintro _ ⟨⟩
  exact h

theorem KeepsRoundKeys.ite {c : Prop} [Decidable c] {r r' : Result} (h : KeepsRoundKeys s r)
    (h' : KeepsRoundKeys s r') : KeepsRoundKeys s (if c then r else r') := by
  split
  · exact h
  · exact h'

theorem KeepsRoundKeys.withSchedule {rest : KeySize → Result} (h : ∀ ks, KeepsRoundKeys s (rest ks)) :
    KeepsRoundKeys s (withSchedule s rest) := by
  rcases withSchedule_eq s rest with ⟨-, e⟩ | ⟨ks, -, e⟩ <;> rw [e]
  · exact .next rfl
  · exact h ks

theorem KeepsRoundKeys.withInput {n : Nat} {rest : List Byte → Result} (h : ∀ bs, KeepsRoundKeys s (rest bs)) :
    KeepsRoundKeys s (withInput n s rest) := by
  rcases withInput_eq n s rest with ⟨bs, -, -, e⟩ | ⟨k, -, -, e⟩ <;> rw [e]
  · exact h bs
  · rintro _ ⟨⟩

/-- No command but KEY_EXPAND stores in the round-key memory (R48, R207). -/
theorem exec_keepsRoundKeys {i : Instr} (hne : i ≠ .keyExpand) (s : State) : KeepsRoundKeys s (exec i s) := by
  cases i with
  | keyExpand => exact absurd rfl hne
  | nop | gfXtime | gfMul | sbox | invSbox | subWord | rotWord | ctrIncrement => exact .next rfl
  | subBytes | invSubBytes | shiftRows | invShiftRows | mixColumns | invMixColumns => exact .next rfl
  | addRoundKey round => exact .withSchedule fun _ => .ite (.next rfl) (.next rfl)
  | encryptBlock | decryptBlock => exact .withSchedule fun _ => .next rfl
  | cbcEncrypt | ctrEncrypt => exact .withSchedule fun _ => .ite (.next rfl) (.withInput fun _ => .next rfl)
  | cbcDecrypt =>
    exact .withSchedule fun _ => .ite (.next rfl) (.ite (.next rfl) (.withInput fun _ => .ite (.next rfl) (.next rfl)))
  | ctrDecrypt => exact .withSchedule fun _ => .ite (.next rfl) (.ite (.next rfl) (.withInput fun _ => .next rfl))

/-- KEY_EXPAND leaves the round keys on INVALID_KEY, and otherwise completes with ERR = OK (R162, R212). -/
theorem execKeyExpand_next (h : execKeyExpand s = .next t) :
    t.latched = none ∧ (roundKeys t = roundKeys s ∨ t.err = .ok) := by
  unfold execKeyExpand at h
  split at h <;> cases h
  · exact ⟨rfl, .inl rfl⟩
  · exact ⟨rfl, .inr rfl⟩

/-- KEY_EXPAND has one command word (R96, R98). -/
theorem decode_eq_keyExpand {w : Word} (h : decode w = .ok .keyExpand) : w = 0x00000020 := by
  unfold decode at h
  split at h
  · split at h <;> cases h
  · split at h
    · cases h
    · next hhigh =>
      have hlow : opcodeField w = 0x20 := by
        revert h
        generalize opcodeField w = op
        revert op
        decide
      have hsplit : w.extractLsb' 8 24 ++ w.extractLsb' 0 8 = w := by
        rw [BitVec.extractLsb'_append_extractLsb'_eq_extractLsb' (by rfl)]
        exact BitVec.extractLsb'_eq_self
      rw [← hsplit, not_not.1 hhigh, show w.extractLsb' 0 8 = 0x20 from hlow]
      rfl

/-- The engine's turn keeps the round keys, or is the completion of KEY_EXPAND's word with ERR = OK (R48). -/
theorem engineStep_roundKeys (h : engineStep s = .next t) :
    roundKeys t = roundKeys s ∨ (s.latched = some 0x00000020 ∧ t.latched = none ∧ t.err = .ok) := by
  rcases engineStep_eq s with ⟨-, e⟩ | ⟨w, i, hw, hdec, e⟩ | ⟨_, _, -, -, e⟩ <;> rw [e] at h
  · cases h; exact .inl rfl
  · by_cases hi : i = .keyExpand
    · subst hi
      obtain ⟨hidle, hkept | hok⟩ := execKeyExpand_next h
      · exact .inl hkept
      · exact .inr ⟨decode_eq_keyExpand hdec ▸ hw, hidle, hok⟩
    · exact .inl (exec_keepsRoundKeys hi s t h)
  · cases h; exact .inl rfl

/-- Settles O10: among the turns a step can take, only a reset and the engine's completion of KEY_EXPAND reach RK and
RKINFO (`engineStep_roundKeys`, `HostEvent.roundKeys`). -/
theorem scheduleIsImmutable : Obligations.ScheduleIsImmutable := by
  intro s t h
  rw [← Prod.mk.injEq]
  rcases step_eq s with ⟨hnil, -, e⟩ | ⟨-, -, e⟩ | ⟨turn, rest, hturns, e⟩ <;> rw [e] at h
  · exact (engineStep_roundKeys h).imp_right fun hexp => .inr ⟨.inl hnil, hexp⟩
  · exact .inl (HostEvent.programStep h).roundKeys
  · cases turn with
    | engine => exact (engineStep_roundKeys h).imp_right fun hexp => .inr ⟨.inr (by simp [hturns]), hexp⟩
    | bus tr => exact .inl (HostEvent.transfer h).roundKeys
    | program => exact .inl (HostEvent.programStep h).roundKeys
    | reset => cases h; exact .inr (.inl ⟨by simp [hturns], rfl, rfl⟩)

end Sys2Proof.Machine
end

section
/-! PROOFS. What a command reads: nothing but the datapath (R49, R203, R207). -/

namespace Sys2Proof.Machine

/-- The state with the datapath d, and all the rest as in s: CTRL, STATUS and the outside world. -/
def withDatapath (d : Datapath) (s : State) : State :=
  { s with
    bufBytes := d.bufBytes, opa := d.opa, opb := d.opb, res := d.res, keylen := d.keylen, rkInfo := d.rkInfo
    inLen := d.inLen, outLen := d.outLen, key := d.key, iv := d.iv, stateReg := d.stateReg, blkIn := d.blkIn
    blkOut := d.blkOut, rk := d.rk, mem := d.mem }

theorem withDatapath_datapath (s : State) : withDatapath (datapath s) s = s := rfl

/-- Two completions with the same result and result code, or the same fault. -/
inductive SameCompletion : Result → Result → Prop
  | next {t v : State} (hdata : datapath t = datapath v) (herr : t.err = v.err) : SameCompletion (.next t) (.next v)
  | fault (f : Fault) : SameCompletion (.fault f) (.fault f)

theorem SameCompletion.ite {c : Prop} [Decidable c] {r r' q q' : Result} (h : SameCompletion r q)
    (h' : SameCompletion r' q') : SameCompletion (if c then r else r') (if c then q else q') := by
  split
  · exact h
  · exact h'

section

variable {s u : State}

theorem SameCompletion.withSchedule {rest rest' : KeySize → Result}
    (h : ∀ ks, SameCompletion (rest ks) (rest' ks)) :
    SameCompletion (withSchedule s rest) (withSchedule (withDatapath (datapath s) u) rest') := by
  unfold Machine.withSchedule
  rw [show (withDatapath (datapath s) u).rkInfo = s.rkInfo from rfl]
  cases s.rkInfo with
  | none => exact .next rfl rfl
  | some ks => exact h ks

theorem SameCompletion.withInput {n : Nat} {rest rest' : List Byte → Result}
    (h : ∀ bs, SameCompletion (rest bs) (rest' bs)) :
    SameCompletion (withInput n s rest) (withInput n (withDatapath (datapath s) u) rest') := by
  unfold Machine.withInput
  rw [show (withDatapath (datapath s) u).mem = s.mem from rfl]
  cases memRead inBase n s.mem with
  | error f => exact .fault f
  | ok bs => exact h bs

end

theorem execKeyExpand_sameCompletion (s u : State) :
    SameCompletion (execKeyExpand s) (execKeyExpand (withDatapath (datapath s) u)) := by
  unfold execKeyExpand
  rw [show (withDatapath (datapath s) u).keylen = s.keylen from rfl]
  cases keySizeOf s.keylen with
  | none => exact .next rfl rfl
  | some ks => exact .next rfl rfl

/-- A command completes alike on two states with the same datapath. -/
theorem exec_sameCompletion (i : Instr) (s u : State) :
    SameCompletion (exec i s) (exec i (withDatapath (datapath s) u)) := by
  cases i with
  | nop | gfXtime | gfMul | sbox | invSbox | subWord | rotWord | ctrIncrement => exact .next rfl rfl
  | subBytes | invSubBytes | shiftRows | invShiftRows | mixColumns | invMixColumns => exact .next rfl rfl
  | addRoundKey round => exact .withSchedule fun _ => .ite (.next rfl rfl) (.next rfl rfl)
  | keyExpand => exact execKeyExpand_sameCompletion s u
  | encryptBlock | decryptBlock => exact .withSchedule fun _ => .next rfl rfl
  | cbcEncrypt | ctrEncrypt =>
    exact .withSchedule fun _ => .ite (.next rfl rfl) (.withInput fun _ => .next rfl rfl)
  | cbcDecrypt =>
    exact .withSchedule fun _ => .ite (.next rfl rfl)
      (.ite (.next rfl rfl) (.withInput fun _ => .ite (.next rfl rfl) (.next rfl rfl)))
  | ctrDecrypt =>
    exact .withSchedule fun _ => .ite (.next rfl rfl) (.ite (.next rfl rfl) (.withInput fun _ => .next rfl rfl))

/-- Settles O27: the second state is the first with its own CTRL, STATUS and outside world (`exec_sameCompletion`). -/
theorem executeReadsOnlyTheDatapath : Obligations.ExecuteReadsOnlyTheDatapath := by
  intro i s u hdata
  have h := exec_sameCompletion i s u
  rw [hdata, withDatapath_datapath] at h
  constructor
  · intro t ht
    rw [ht] at h
    generalize exec i u = r at h
    cases h with
    | next hd he => exact ⟨_, rfl, hd, he⟩
  · intro f hf
    rw [hf] at h
    generalize exec i u = r at h
    cases h with
    | fault => rfl

end Sys2Proof.Machine
end

section
/-! PROOFS. The register map and the offsets of the names, both ways (R20, R61, R67). -/

namespace Sys2Proof.Machine

/-! ## From a name to its place in the map -/

/-- A number within the 16 KiB window is its own offset (R60). -/
theorem toNat_ofNat_offset {a : Nat} (h : a < 0x4000) : (BitVec.ofNat 14 a).toNat = a := Nat.mod_eq_of_lt h

theorem toNat_offsetOf_inWord {a : Nat} (h : a < 4096) : (offsetOf (.inWord a)).toNat = inBase + a :=
  toNat_ofNat_offset (by simp only [inBase]; omega)

theorem toNat_offsetOf_outWord {a : Nat} (h : a < 4096) : (offsetOf (.outWord a)).toNat = outBase + a :=
  toNat_ofNat_offset (by simp only [outBase]; omega)

theorem singleRegs_lookup_of_le {a : Nat} (h : 0x040 ≤ a) : singleRegs.lookup a = none := by
  rw [List.lookup_eq_none_iff]
  intro p hp
  have hlt : p.1 < 0x040 := (show ∀ p ∈ singleRegs, p.1 < 0x040 by decide) p hp
  simp only [bne_iff_ne]
  omega

theorem fileWord_of_le {base n a : Nat} (h : base + 4 * n ≤ a) : fileWord base n a = none := by
  rw [fileWord, dif_neg (by omega)]

/-- The files of registers end below the buffers. -/
theorem fileReg_of_le {a : Nat} (h : 0x1000 ≤ a) : fileReg a = none := by
  simp only [fileReg]
  repeat rw [fileWord_of_le (by omega)]
  rfl

theorem regAt_of_fileReg {n : Nat} {off : Offset} {r : RegName} (hoff : 0x040 ≤ off.toNat)
    (h : fileReg off.toNat = some r) : regAt n off = some r := by
  rw [regAt, singleRegs_lookup_of_le hoff, h]
  rfl

theorem regAt_of_bufferReg {n : Nat} {off : Offset} (h : 0x1000 ≤ off.toNat) :
    regAt n off = bufferReg n off.toNat := by
  rw [regAt, singleRegs_lookup_of_le (by omega), fileReg_of_le h]
  rfl

theorem bufferReg_in {n a : Nat} (h : a < n) : bufferReg n (inBase + a) = some (.inWord a) := by
  rw [bufferReg, if_pos (by omega), Nat.add_sub_cancel_left]

/-- IN ends where OUT begins at the latest (R11, R61). -/
theorem bufferReg_out {n a : Nat} (hn : n ≤ 4096) (h : a < n) : bufferReg n (outBase + a) = some (.outWord a) := by
  have hbases : outBase = inBase + 4096 := rfl
  rw [bufferReg, if_neg (by omega), if_pos (by omega), Nat.add_sub_cancel_left]

/-- The map has each name of the given size at its own offset, an aligned one (R20, R65). -/
theorem regAt_offsetOf {n : Nat} {r : RegName} (hn : Config.bufBytesOk n) (hr : RegName.mapped n r = true) :
    aligned (offsetOf r) = true ∧ regAt n (offsetOf r) = some r := by
  obtain ⟨-, -, hmax⟩ := hn
  cases r with
  | id | version | caps | ctrl | status | cmd | opa | opb | res | keylen | rkinfo | inLen | outLen =>
    exact ⟨rfl, rfl⟩
  | key i | iv i | state i | blkIn i | blkOut i | rk i =>
    clear hr
    exact ⟨by decide +revert, regAt_of_fileReg (by decide +revert) (by decide +revert)⟩
  | inWord a =>
    obtain ⟨hmod, hlt⟩ := of_decide_eq_true hr
    have hoff := toNat_offsetOf_inWord (a := a) (by omega)
    rw [aligned_iff, regAt_of_bufferReg (by rw [hoff]; exact Nat.le_add_right _ _), hoff]
    exact ⟨by simp only [inBase]; omega, bufferReg_in hlt⟩
  | outWord a =>
    obtain ⟨hmod, hlt⟩ := of_decide_eq_true hr
    have hoff := toNat_offsetOf_outWord (a := a) (by omega)
    rw [aligned_iff, regAt_of_bufferReg (by simp only [hoff, outBase]; omega), hoff]
    exact ⟨by simp only [outBase]; omega, bufferReg_out hmax hlt⟩

/-! ## From a place in the map to its name -/

/-- A name that needs no buffer word is mapped whatever the size of the buffers. -/
theorem mapped_of_mapped_zero {r : RegName} (n : Nat) (h : RegName.mapped 0 r = true) : RegName.mapped n r = true := by
  cases r with
  | inWord a | outWord a => simp [RegName.mapped] at h
  | _ => rfl

theorem ofNat_toNat_offset (off : Offset) : BitVec.ofNat 14 off.toNat = off := by simp

theorem singleRegs_offsetOf (n : Nat) {off : Offset} {r : RegName} (h : singleRegs.lookup off.toNat = some r) :
    RegName.mapped n r = true ∧ offsetOf r = off := by
  obtain ⟨before, after, hsplit, -⟩ := List.lookup_eq_some_iff.1 h
  have hmem : (off.toNat, r) ∈ singleRegs := by simp [hsplit]
  have hall : ∀ p ∈ singleRegs, RegName.mapped 0 p.2 = true ∧ (offsetOf p.2).toNat = p.1 := by decide
  obtain ⟨hmapped, hoff⟩ := hall _ hmem
  exact ⟨mapped_of_mapped_zero n hmapped, BitVec.eq_of_toNat_eq hoff⟩

/-- An aligned offset in a file is that of the word found there. -/
theorem ofNat_of_fileWord {base n : Nat} {off : Offset} {i : Fin n} (hbase : base % 4 = 0) (ha : off.toNat % 4 = 0)
    (h : fileWord base n off.toNat = some i) : BitVec.ofNat 14 (base + 4 * i.val) = off := by
  unfold fileWord at h
  split at h
  · simp only [Option.some.injEq, Fin.ext_iff] at h
    rw [show base + 4 * i.val = off.toNat by omega, ofNat_toNat_offset]
  · cases h

theorem fileReg_offsetOf (n : Nat) {off : Offset} {r : RegName} (ha : off.toNat % 4 = 0)
    (h : fileReg off.toNat = some r) : RegName.mapped n r = true ∧ offsetOf r = off := by
  simp only [fileReg, Option.or_eq_some_iff, Option.map_eq_some_iff] at h
  rcases h with ⟨i, hi, rfl⟩ | ⟨-, ⟨i, hi, rfl⟩ | ⟨-, ⟨i, hi, rfl⟩ | ⟨-,
    ⟨i, hi, rfl⟩ | ⟨-, ⟨i, hi, rfl⟩ | ⟨-, i, hi, rfl⟩⟩⟩⟩⟩ <;>
    exact ⟨rfl, ofNat_of_fileWord rfl ha hi⟩

theorem bufferReg_offsetOf {n : Nat} {off : Offset} {r : RegName} (ha : off.toNat % 4 = 0)
    (h : bufferReg n off.toNat = some r) : RegName.mapped n r = true ∧ offsetOf r = off := by
  have hbases : inBase % 4 = 0 ∧ outBase % 4 = 0 := ⟨rfl, rfl⟩
  unfold bufferReg at h
  split at h
  · cases h
    refine ⟨by simp only [RegName.mapped, decide_eq_true_eq]; omega, ?_⟩
    show BitVec.ofNat 14 (inBase + (off.toNat - inBase)) = off
    rw [Nat.add_sub_cancel' (by omega), ofNat_toNat_offset]
  · split at h <;> cases h
    refine ⟨by simp only [RegName.mapped, decide_eq_true_eq]; omega, ?_⟩
    show BitVec.ofNat 14 (outBase + (off.toNat - outBase)) = off
    rw [Nat.add_sub_cancel' (by omega), ofNat_toNat_offset]

/-- Whatever the map has at an aligned offset is a mapped name with that offset (R20, R67, R68). -/
theorem offsetOf_of_regAt {n : Nat} {off : Offset} {r : RegName} (ha : aligned off = true)
    (h : regAt n off = some r) : RegName.mapped n r = true ∧ offsetOf r = off := by
  rw [aligned_iff] at ha
  unfold regAt at h
  split at h
  · next q hq => cases h; exact singleRegs_offsetOf n hq
  · rcases Option.or_eq_some_iff.1 h with hfile | ⟨-, hbuf⟩
    · exact fileReg_offsetOf n ha hfile
    · exact bufferReg_offsetOf ha hbuf

/-- Settles O11: the table's offsets by number, and the map in both directions (`regAt_offsetOf`,
`offsetOf_of_regAt`). -/
theorem registerMapAgrees : Obligations.RegisterMapAgrees := by
  refine ⟨?_, ?_, ?_, ?_, ?_, ?_, ?_⟩
  · exact ⟨rfl, rfl, rfl, rfl, rfl, rfl, rfl, rfl, rfl, rfl, rfl, rfl, rfl⟩
  · exact fun i => toNat_ofNat_offset (by omega)
  · exact fun i => ⟨toNat_ofNat_offset (by omega), toNat_ofNat_offset (by omega), toNat_ofNat_offset (by omega),
      toNat_ofNat_offset (by omega)⟩
  · exact fun i => toNat_ofNat_offset (by omega)
  · exact fun a ha => ⟨toNat_offsetOf_inWord ha, toNat_offsetOf_outWord ha⟩
  · exact fun n r hn hr => regAt_offsetOf hn hr
  · exact fun n off r _ ha hr => offsetOf_of_regAt ha hr

/-! ## A transfer at the offset of a mapped name -/

section

variable {s : State} {r : RegName}

theorem hostRead_offsetOf {w : Word} (hn : Config.bufBytesOk s.bufBytes) (hr : RegName.mapped s.bufBytes r = true)
    (hb : State.busy s = false ∨ RegName.isResult r = false) (hw : regWord r s = .ok w) :
    hostRead (offsetOf r) s = .ok (w, { s with resp := some (.okayRead w) }) := by
  obtain ⟨ha, hat⟩ := regAt_offsetOf hn hr
  rw [hostRead_at ha hat hb hw, respond_okayRead]

theorem hostWrite_offsetOf (v : Word) (hn : Config.bufBytesOk s.bufBytes) (hr : RegName.mapped s.bufBytes r = true) :
    hostWrite (offsetOf r) v 0b1111 s = { writeReg r v s with resp := some .okayWrite } := by
  obtain ⟨ha, hat⟩ := regAt_offsetOf hn hr
  rw [hostWrite_at v ha hat, respond_okayWrite]

end

end Sys2Proof.Machine
end

section
/-! PROOFS. What the registers read, what a write stores, and what it leaves: the words of the flags, the constants, and
the registers and buffer bytes by offset (R20 to R45, R63). -/

namespace Sys2Proof.Machine

variable {s : State}

/-! ## The fields of the flag words -/

theorem ctrlWord_fields (ie : Bool) : (0#31 ++ BitVec.ofBool ie).getLsbD 0 = ie ∧
    (0#31 ++ BitVec.ofBool ie).extractLsb' 1 31 = 0#31 := by
  decide +revert

theorem statusWord_fields (err : BitVec 4) (ovr done busy : Bool) :
    let w : Word := 0#20 ++ err ++ 0#5 ++ BitVec.ofBool ovr ++ BitVec.ofBool done ++ BitVec.ofBool busy
    w.extractLsb' 3 5 = 0#5 ∧ w.extractLsb' 12 20 = 0#20 ∧ w.getLsbD 0 = busy ∧ w.getLsbD 1 = done ∧
      w.getLsbD 2 = ovr ∧ w.extractLsb' 8 4 = err := by
  decide +revert

theorem hostRead_status (s : State) :
    hostRead 0x014 s = .ok (statusWord s, { s with resp := some (.okayRead (statusWord s)) }) := by
  rw [hostRead_at (r := .status) rfl rfl (.inr rfl) rfl, respond_okayRead]

theorem hostRead_ctrl (s : State) :
    hostRead 0x010 s = .ok (ctrlWord s, { s with resp := some (.okayRead (ctrlWord s)) }) := by
  rw [hostRead_at (r := .ctrl) rfl rfl (.inr rfl) rfl, respond_okayRead]

/-- RKINFO by the schedule's key size (R36). -/
theorem rkInfoWord_eq (s : State) : rkInfoWord s = match s.rkInfo with
    | none => 0
    | some .aes128 => 0x000A0401
    | some .aes192 => 0x000C0601
    | some .aes256 => 0x000E0801 := by
  unfold rkInfoWord rkNr rkNk rkValid
  cases s.rkInfo with
  | none => rfl
  | some ks => cases ks <;> rfl

/-- Settles O18: the two reads are no results (R246), and the fields are those of the words' parts. -/
theorem statusAndRkinfoFields : Obligations.StatusAndRkinfoFields := by
  intro s
  obtain ⟨hie, hctrl⟩ := ctrlWord_fields s.ie
  obtain ⟨hlow, hhigh, hbusy, hdone, hovr, herr⟩ :=
    statusWord_fields (ResultCode.bits s.err) s.ovr s.done (State.busy s)
  refine ⟨hostRead_status s, hostRead_ctrl s, hie, hctrl, hlow, hhigh, hbusy, hdone, hovr, herr, ?_, ?_, ?_, ?_⟩
  all_goals
    intro h
    rw [rkInfoWord_eq, h]

/-! ## The constants (R23 to R25) -/

/-- R11's sizes fit the field of CAPS. -/
theorem capsWord_fields (hn : s.bufBytes ≤ 4096) :
    ((capsWord s).extractLsb' 0 16).toNat = s.bufBytes ∧ (capsWord s).extractLsb' 16 16 = 0 := by
  constructor
  · rw [capsWord, BitVec.extractLsb'_append_eq_right, BitVec.toNat_ofNat, Nat.mod_eq_of_lt (by omega)]
  · exact BitVec.extractLsb'_append_eq_left

/-- A write, while idle, of a mapped register that only stores or ignores it (R200). -/
theorem hostWrite_store {r : RegName} (v : Word) (hn : Config.bufBytesOk s.bufBytes)
    (hr : RegName.mapped s.bufBytes r = true) (hb : State.busy s = false) (hplain : r ∉ [.status, .ctrl, .cmd]) :
    hostWrite (offsetOf r) v 0b1111 s = { storeReg r v s with resp := some .okayWrite } := by
  have hstore : writeReg r v s = storeReg r v s := by
    rcases writeReg_eq r v s with ⟨h, -⟩ | ⟨h, -⟩ | ⟨-, -, h, -⟩ | ⟨h, -⟩ | ⟨-, -, -, -, e⟩
    · simp [h] at hplain
    · simp [h] at hplain
    · simp [hb] at h
    · simp [h] at hplain
    · exact e
  rw [hostWrite_offsetOf v hn hr, hstore]

/-- Settles O13: the three names are mapped and no results, and `storeReg` ignores a write to them (R70). -/
theorem identificationRegisters : Obligations.IdentificationRegisters := by
  intro s hn
  refine ⟨hostRead_offsetOf (r := .id) hn rfl (.inr rfl) rfl,
    hostRead_offsetOf (r := .version) hn rfl (.inr rfl) rfl,
    ⟨capsWord s, hostRead_offsetOf (r := .caps) hn rfl (.inr rfl) rfl, capsWord_fields hn.2.2⟩,
    fun hb v off hoff => ?_⟩
  simp only [List.mem_cons, List.not_mem_nil, or_false] at hoff
  rcases hoff with rfl | rfl | rfl
  · exact hostWrite_store (r := .id) v hn rfl hb (by decide)
  · exact hostWrite_store (r := .version) v hn rfl hb (by decide)
  · exact hostWrite_store (r := .caps) v hn rfl hb (by decide)

/-! ## What a stored word leaves (R61, R63, R72) -/

theorem writable_plain {r : RegName} (h : RegName.writable r = true) : r ∉ [.status, .ctrl, .cmd] := by
  intro hr
  simp only [List.mem_cons, List.not_mem_nil, or_false] at hr
  rcases hr with rfl | rfl | rfl <;> cases h

theorem Quad.get_set_of_ne {α : Type} (q : Quad α) {i j : Fin 4} (a : α) (h : j ≠ i) :
    Quad.get (Quad.set q i a) j = Quad.get q j := by
  rw [Quad.get_set, if_neg h]

theorem memRead_congr {m m' : List Host.Cell} : ∀ (n a : Nat),
    (∀ x, a ≤ x → x < a + n → entryGet x m' = entryGet x m) → memRead a n m' = memRead a n m := by
  intro n
  induction n with
  | zero => intro a _; rfl
  | succ n ih =>
    intro a h
    rw [memRead, memRead, h a (by omega) (by omega), ih (a + 1) fun x hlo hhi => h x (by omega) (by omega)]

theorem entryGet_memWriteWord_out {a x : Nat} (v : Word) (m : List Host.Cell) (h : x < a ∨ a + 4 ≤ x) :
    entryGet x (memWriteWord a v m) = entryGet x m :=
  entryGet_memWrite_out _ a x m h

theorem memReadWord_memWriteWord_out {a b : Nat} (v : Word) (m : List Host.Cell) (h : b + 4 ≤ a ∨ a + 4 ≤ b) :
    memReadWord b (memWriteWord a v m) = memReadWord b m := by
  rw [memReadWord, memReadWord, memRead_congr 4 b fun x hlo hhi => entryGet_memWriteWord_out v m (by omega)]

/-- A stored register word leaves the bytes of both buffers, and a stored word of IN all but its own four. -/
theorem byteAt_storeReg {r : RegName} {a : Nat} (v : Word)
    (h : ∀ b, r = .inWord b → a < inBase + b ∨ inBase + b + 4 ≤ a) : byteAt (storeReg r v s) a = byteAt s a := by
  cases r with
  | inWord b => exact entryGet_memWriteWord_out v s.mem (h b rfl)
  | _ => rfl

/-- Distinct words of IN are disjoint by their alignment, and IN ends where OUT begins at the latest (R11, R61). -/
theorem regWord_storeReg_of_ne {r q : RegName} (v : Word) (hn : s.bufBytes ≤ 4096)
    (hr : RegName.mapped s.bufBytes r = true) (hq : RegName.mapped s.bufBytes q = true) (hne : q ≠ r) :
    regWord q (storeReg r v s) = regWord q s := by
  cases r with
  | id | version | caps | ctrl | status | cmd | res | rkinfo | outLen | blkOut i | rk i | outWord a => rfl
  | opa => cases q with
    | opa => exact absurd rfl hne
    | _ => rfl
  | opb => cases q with
    | opb => exact absurd rfl hne
    | _ => rfl
  | keylen => cases q with
    | keylen => exact absurd rfl hne
    | _ => rfl
  | inLen => cases q with
    | inLen => exact absurd rfl hne
    | _ => rfl
  | key i => cases q with
    | key j =>
      have hij : i.val ≠ j.val := fun h => hne (congrArg RegName.key (Fin.ext h.symm))
      exact congrArg Except.ok (Vector.getElem_set_ne i.isLt j.isLt hij)
    | _ => rfl
  | iv i => cases q with
    | iv j => exact congrArg Except.ok (Quad.get_set_of_ne _ v fun h => hne (congrArg RegName.iv h))
    | _ => rfl
  | state i => cases q with
    | state j => exact congrArg Except.ok (Quad.get_set_of_ne _ v fun h => hne (congrArg RegName.state h))
    | _ => rfl
  | blkIn i => cases q with
    | blkIn j => exact congrArg Except.ok (Quad.get_set_of_ne _ v fun h => hne (congrArg RegName.blkIn h))
    | _ => rfl
  | inWord a =>
    obtain ⟨ha, hlt⟩ := of_decide_eq_true hr
    cases q with
    | inWord b =>
      obtain ⟨hb, -⟩ := of_decide_eq_true hq
      have hab : b ≠ a := fun h => hne (h ▸ rfl)
      exact memReadWord_memWriteWord_out v s.mem (by omega)
    | outWord b =>
      have hbases : outBase = inBase + 4096 := rfl
      exact memReadWord_memWriteWord_out v s.mem (by omega)
    | _ => rfl

/-- Settles O20: an idle write is `storeReg`, which `regWord_storeReg_of_ne` and `byteAt_storeReg` frame. -/
theorem writeLeavesTheOthers : Obligations.WriteLeavesTheOthers := by
  intro s r q v hb hn hr hw hq hne
  rw [hostWrite_store v hn hr hb (writable_plain hw)]
  exact ⟨regWord_storeReg_of_ne v hn.2.2 hr hq hne, fun a ha => byteAt_storeReg v ha⟩

/-! ## Transfers by offset (R20, R61, R63) -/

/-- The four bytes of a stored word, most significant first (R63). -/
theorem entryGet_memWriteWord_in (a : Nat) (v : Word) (m : List Host.Cell) (k : Fin 4) :
    entryGet (a + k.val) (memWriteWord a v m) = some (v.extractLsb' (24 - 8 * k.val) 8) := by
  rw [memWriteWord, entryGet_memWrite_in (Quad.toList (unpackWord v)) a k.val m k.isLt, ← get_unpackWord]
  match k with
  | 0 | 1 | 2 | 3 => rfl

/-- An idle write of a word of IN stores its four bytes and nothing else (R45, R61, R63). -/
theorem hostWrite_inWord (v : Word) (hb : State.busy s = false) (hn : Config.bufBytesOk s.bufBytes) {a : Nat}
    (ha : a % 4 = 0) (hlt : a < s.bufBytes) :
    hostWrite (BitVec.ofNat 14 (0x1000 + a)) v 0b1111 s =
      { s with mem := memWriteWord (0x1000 + a) v s.mem, resp := some .okayWrite } :=
  hostWrite_store (r := .inWord a) v hn (decide_eq_true ⟨ha, hlt⟩) hb (by simp)

/-- Settles O60: each literal offset is that of a mapped name, whose transfers are `hostWrite_store`, `hostWrite_inWord`
and `hostRead_offsetOf`. -/
theorem transfersReachTheirRegister : Obligations.TransfersReachTheirRegister := by
  intro s v hb hn
  have hwrite {r : RegName} (hr : RegName.mapped s.bufBytes r = true) (hw : RegName.writable r = true) :=
    hostWrite_store v hn hr hb (writable_plain hw)
  have hread {r : RegName} {w : Word} (hr : RegName.mapped s.bufBytes r = true) (hw : regWord r s = .ok w) :=
    hostRead_offsetOf hn hr (.inl hb) hw
  refine ⟨⟨hwrite (r := .opa) rfl rfl, hwrite (r := .opb) rfl rfl, hwrite (r := .keylen) rfl rfl,
    hwrite (r := .inLen) rfl rfl⟩, fun i => hwrite (r := .key i) rfl rfl,
    fun i => ⟨hwrite (r := .iv i) rfl rfl, hwrite (r := .state i) rfl rfl, hwrite (r := .blkIn i) rfl rfl⟩,
    fun a ha hlt => ⟨_, hostWrite_inWord v hb hn ha hlt, rfl, entryGet_memWriteWord_in _ v s.mem,
      fun b hout => entryGet_memWriteWord_out v s.mem hout⟩, ?_,
    fun i => hread (r := .key i) rfl rfl, fun i => hread (r := .rk i) rfl rfl, ?_⟩
  · intro p hp
    simp only [List.mem_cons, List.not_mem_nil, or_false] at hp
    rcases hp with rfl | rfl | rfl | rfl | rfl | rfl | rfl
    · exact hread (r := .opa) rfl rfl
    · exact hread (r := .opb) rfl rfl
    · exact hread (r := .res) rfl rfl
    · exact hread (r := .keylen) rfl rfl
    · exact hread (r := .rkinfo) rfl rfl
    · exact hread (r := .inLen) rfl rfl
    · exact hread (r := .outLen) rfl rfl
  · intro i p hp
    simp only [List.mem_cons, List.not_mem_nil, or_false] at hp
    rcases hp with rfl | rfl | rfl | rfl
    · exact hread (r := .iv i) rfl rfl
    · exact hread (r := .state i) rfl rfl
    · exact hread (r := .blkIn i) rfl rfl
    · exact hread (r := .blkOut i) rfl rfl

end Sys2Proof.Machine
end

section
/-! PROOFS. The memory and bus rules of 20_memory.md: which offsets answer ERROR, what a transfer leaves unchanged, that a
stored word reads back, what stands still while a command is in flight, and what a completion may write. -/

namespace Sys2Proof.Machine

variable {s t u : State}

/-! ## The offsets that the map does not list (R20, R61, R67, R68) -/

/-- The offsets of R20's table, and the two buffers by their size. -/
def listedOffset (n a : Nat) : Prop :=
  a ∈ [0x000, 0x004, 0x008, 0x010, 0x014, 0x018, 0x020, 0x024, 0x028, 0x030, 0x034, 0x038, 0x03C] ∨
  (0x040 ≤ a ∧ a < 0x0A0) ∨ (0x100 ≤ a ∧ a < 0x1F0) ∨ (0x1000 ≤ a ∧ a < 0x1000 + n) ∨ (0x2000 ≤ a ∧ a < 0x2000 + n)

theorem singleRegs_lookup_eq_none_iff (a : Nat) : singleRegs.lookup a = none ↔
    a ∉ [0x000, 0x004, 0x008, 0x010, 0x014, 0x018, 0x020, 0x024, 0x028, 0x030, 0x034, 0x038, 0x03C] := by
  simp [List.lookup_eq_none_iff, singleRegs]

theorem fileWord_eq_none_iff (base n a : Nat) : fileWord base n a = none ↔ ¬(base ≤ a ∧ a < base + 4 * n) := by
  unfold fileWord
  split
  · simp only [reduceCtorEq, false_iff]
    omega
  · simp only [true_iff]
    omega

/-- The files from KEY to BLK_OUT stand without a gap, and RK by itself. -/
theorem fileReg_eq_none_iff (a : Nat) :
    fileReg a = none ↔ ¬((0x040 ≤ a ∧ a < 0x0A0) ∨ (0x100 ≤ a ∧ a < 0x1F0)) := by
  simp only [fileReg, Option.or_eq_none_iff, Option.map_eq_none_iff, fileWord_eq_none_iff]
  omega

theorem bufferReg_eq_none_iff (n a : Nat) :
    bufferReg n a = none ↔ ¬((0x1000 ≤ a ∧ a < 0x1000 + n) ∨ (0x2000 ≤ a ∧ a < 0x2000 + n)) := by
  unfold bufferReg inBase outBase
  split
  · next hin => simp [hin]
  · next hin =>
    split
    · next hout => simp [hout]
    · next hout => simp only [hin, hout, or_self, not_false_iff]

theorem regAt_eq_none_iff (n : Nat) (off : Offset) : regAt n off = none ↔ ¬ listedOffset n off.toNat := by
  have hparts : regAt n off = none ↔
      singleRegs.lookup off.toNat = none ∧ fileReg off.toNat = none ∧ bufferReg n off.toNat = none := by
    unfold regAt
    cases singleRegs.lookup off.toNat <;> simp
  rw [hparts, singleRegs_lookup_eq_none_iff, fileReg_eq_none_iff, bufferReg_eq_none_iff, ← not_or, ← not_or,
    listedOffset, or_assoc]

/-! ## Transfers with an ERROR response (R65 to R69) -/

theorem hostWrite_error {off : Offset} {strb : BitVec 4} (v : Word)
    (h : off.toNat % 4 ≠ 0 ∨ strb ≠ 0b1111 ∨ ¬ listedOffset s.bufBytes off.toNat) :
    hostWrite off v strb s = respond .error s := by
  rcases hostWrite_eq off v strb s with ⟨-, e⟩ | ⟨r, ha, hstrb, hr, -⟩
  · exact e
  · rw [ne_eq, ← aligned_iff, ← regAt_eq_none_iff] at h
    simp [ha, hstrb, hr] at h

theorem hostRead_error {off : Offset} (h : off.toNat % 4 ≠ 0 ∨ ¬ listedOffset s.bufBytes off.toNat) :
    hostRead off s = .ok (0, respond .error s) := by
  rcases hostRead_eq off s with ⟨-, e⟩ | ⟨r, ha, hr, -⟩
  · exact e
  · rw [ne_eq, ← aligned_iff, ← regAt_eq_none_iff] at h
    simp [ha, hr] at h

theorem hostWrite_okay {off : Offset} (v : Word) (ha : off.toNat % 4 = 0) (hlisted : listedOffset s.bufBytes off.toNat) :
    (hostWrite off v 0b1111 s).resp = some .okayWrite := by
  rcases hostWrite_eq off v 0b1111 s with ⟨herr, -⟩ | ⟨r, -, -, -, e⟩
  · rw [← Bool.not_eq_true, aligned_iff, regAt_eq_none_iff] at herr
    simp [ha, hlisted] at herr
  · rw [e, respond_okayWrite]

/-- Settles O12: the map lists exactly the offsets of R20's table (`regAt_eq_none_iff`), and an ERROR response is
`respond .error` alone. -/
theorem busErrorsHaveNoEffect : Obligations.BusErrorsHaveNoEffect := by
  intro s off v strb
  refine ⟨fun h => ?_, fun h => ⟨_, hostRead_error h, ?_⟩, fun ⟨ha, hstrb, hlisted⟩ => ?_⟩
  · rw [hostWrite_error v h, respond_error]
  · rw [respond_error]
  · rw [hstrb]
    exact hostWrite_okay v ha hlisted

/-! ## Writes that are ignored, whole or in part (R70) -/

theorem storeReg_of_not_writable {r : RegName} (v : Word) (h : RegName.writable r = false) : storeReg r v s = s := by
  cases r with
  | opa | opb | keylen | inLen | key i | iv i | state i | blkIn i | inWord a => cases h
  | _ => rfl

theorem hostWrite_ctrl (v : Word) (s : State) :
    hostWrite 0x010 v 0b1111 s = { writeCtrl v s with resp := some .okayWrite } := by
  rw [hostWrite_at (r := .ctrl) v rfl rfl, respond_okayWrite]
  rfl

theorem hostWrite_status (v : Word) (s : State) :
    hostWrite 0x014 v 0b1111 s = { writeStatus v s with resp := some .okayWrite } := by
  rw [hostWrite_at (r := .status) v rfl rfl, respond_okayWrite]
  rfl

theorem hostRead_cmd (s : State) : hostRead 0x018 s = .ok (0, { s with resp := some (.okayRead 0) }) := by
  rw [hostRead_at (r := .cmd) rfl rfl (.inr rfl) rfl, respond_okayRead]

theorem ctrlWord_eq_setWidth (s : State) : ctrlWord s = (BitVec.ofBool s.ie).setWidth 32 := by
  unfold ctrlWord
  cases s.ie <;> rfl

/-- Of a word written to CTRL bit 0 reads back (R26). -/
theorem ctrlWord_writeCtrl (v : Word) (s : State) : ctrlWord (writeCtrl v s) = v &&& 1 := by
  rw [ctrlWord_eq_setWidth]
  exact (BitVec.and_one_eq_setWidth_ofBool_getLsbD (x := v)).symm

theorem writeCtrl_and (v : Word) (s : State) : writeCtrl (v &&& 0x00000001) s = writeCtrl v s := by
  simp [writeCtrl]

theorem writeStatus_and (v : Word) (s : State) : writeStatus (v &&& 0x00000006) s = writeStatus v s := by
  simp [writeStatus]

theorem writeStatus_zero (s : State) : writeStatus 0 s = s := rfl

/-- Bits [31:12] and [7:3] of STATUS are reserved (R27 to R30). -/
theorem statusWord_reserved (s : State) : statusWord s &&& 0xFFFFF0F8 = 0 := by
  unfold statusWord
  generalize ResultCode.bits s.err = err
  generalize s.ovr = ovr
  generalize s.done = done
  generalize State.busy s = busy
  decide +revert

theorem rkInfoWord_reserved (s : State) : rkInfoWord s &&& 0xFFF0F0FE = 0 := by
  rw [rkInfoWord_eq]
  split <;> rfl

theorem ctrlWord_reserved (s : State) : ctrlWord s &&& 0xFFFFFFFE = 0 := by
  unfold ctrlWord
  cases s.ie <;> rfl

/-- Settles O17: `storeReg` ignores what is not writable, and CTRL and STATUS look at bit 0 and at bits 1 and 2 of the
written word. -/
theorem readOnlyWritesAreIgnored : Obligations.ReadOnlyWritesAreIgnored := by
  refine ⟨fun s v r hb hn hr hro hctrl hstatus hcmd => ?_, fun s v => ?_, hostRead_cmd,
    fun s => ⟨statusWord_reserved s, rkInfoWord_reserved s, ctrlWord_reserved s⟩, fun s v => ⟨?_, ?_⟩, fun s => ?_⟩
  · rw [hostWrite_store v hn hr hb (by simp [hctrl, hstatus, hcmd]), storeReg_of_not_writable v hro]
  · have hword : ctrlWord (hostWrite 0x010 v 0b1111 s) = v &&& 1 := by
      rw [hostWrite_ctrl]
      exact ctrlWord_writeCtrl v s
    rw [hostRead_ctrl, hword, hostWrite_ctrl]
    rfl
  · rw [hostWrite_ctrl, hostWrite_ctrl, writeCtrl_and]
  · rw [hostWrite_status, hostWrite_status, writeStatus_and]
  · rw [hostWrite_status, writeStatus_zero]

/-! ## A register read again (R63, R72, R74) -/

/-- No register word depends on the host program's fields, the response ports or the model's records. -/
theorem HostFieldsOnly.regWord (r : RegName) (h : HostFieldsOnly s t) : regWord r t = regWord r s := by
  rw [h]
  cases r <;> rfl

theorem HostFieldsOnly.busy (h : HostFieldsOnly s t) : State.busy t = State.busy s := by
  rw [h]
  rfl

theorem HostFieldsOnly.bufBytes (h : HostFieldsOnly s t) : t.bufBytes = s.bufBytes := by
  rw [h]

theorem storeReg_bufBytes (r : RegName) (v : Word) (s : State) : (storeReg r v s).bufBytes = s.bufBytes := by
  cases r <;> rfl

theorem busy_storeReg (r : RegName) (v : Word) (s : State) : State.busy (storeReg r v s) = State.busy s := by
  cases r <;> rfl

theorem memReadWord_memWriteWord_self (a : Nat) (v : Word) (m : List Host.Cell) :
    memReadWord a (memWriteWord a v m) = .ok v := by
  have hread : memRead a 4 (memWriteWord a v m) = .ok (Quad.toList (unpackWord v)) :=
    (memRead_ok_iff _ 4 a _).2 ⟨rfl, fun k hk => entryGet_memWrite_in _ a k m hk⟩
  rw [memReadWord, hread]
  exact congrArg Except.ok (packWord_unpackWord v)

theorem regWord_storeReg_self {r : RegName} (v : Word) (h : RegName.writable r = true) :
    regWord r (storeReg r v s) = .ok v := by
  cases r with
  | opa | opb | keylen | inLen => rfl
  | key i => exact congrArg Except.ok (Vector.getElem_set_self i.isLt)
  | iv i | state i | blkIn i => exact congrArg Except.ok ((Quad.get_set _ i i v).trans (if_pos rfl))
  | inWord a => exact memReadWord_memWriteWord_self (inBase + a) v s.mem
  | _ => cases h

/-- Settles O19: an idle write is `storeReg` and its response, and the register then holds the word
(`regWord_storeReg_self`). -/
theorem writeThenReadBack : Obligations.WriteThenReadBack := by
  intro s r v hb hn hr hw
  obtain ⟨ha, hat⟩ := regAt_offsetOf hn hr
  have hwrite : HostFieldsOnly (storeReg r v s) (hostWrite (offsetOf r) v 0b1111 s) := by
    rw [hostWrite_store v hn hr hb (writable_plain hw)]
    rfl
  refine hostRead_at (r := r) ha ?_ (.inl ?_) ?_
  · rw [hwrite.bufBytes, storeReg_bufBytes, hat]
  · rw [hwrite.busy, busy_storeReg, hb]
  · rw [hwrite.regWord r, regWord_storeReg_self v hw]

/-- A read that draws no free value finds the same word in a state that differs in the host's fields alone (R72). -/
theorem hostRead_again {off : Offset} {v : Word} (h : hostRead off s = .ok (v, u)) (hst : HostFieldsOnly s t) :
    (State.busy s = true ∧ ∃ r, regAt s.bufBytes off = some r ∧ RegName.isResult r = true) ∨
      ∃ u', hostRead off t = .ok (v, u') := by
  rcases hostRead_eq off s with ⟨hunmapped, e⟩ | ⟨r, ha, hr, ⟨hb, hres, -⟩ | ⟨hplain, ⟨w, hw, e⟩ | ⟨f, -, e⟩⟩⟩
  · rw [e] at h
    cases h
    rcases hostRead_eq off t with ⟨-, e'⟩ | ⟨r, ha, hr, -⟩
    · exact .inr ⟨_, e'⟩
    · rw [hst.bufBytes] at hr
      simp [ha, hr] at hunmapped
  · exact .inl ⟨hb, r, hr, hres⟩
  · rw [e] at h
    cases h
    exact .inr ⟨_, hostRead_at ha (hst.bufBytes.symm ▸ hr) (hst.busy.symm ▸ hplain) ((hst.regWord r).trans hw)⟩
  · rw [e] at h
    cases h

/-- Settles O21: a read changes host fields alone (`hostRead_state`), so the same read answers alike
(`hostRead_again`). -/
theorem readsHaveNoSideEffect : Obligations.ReadsHaveNoSideEffect :=
  fun _ _ _ _ h => ⟨hostRead_state h, hostRead_again h (.hostRead h)⟩

/-! ## While a command is in flight (R75, R205) -/

/-- What a command in flight rests on: its operands and results, its latched word, and ERR. -/
def commandHeld (s : State) : Datapath × Option Word × ResultCode := (datapath s, s.latched, s.err)

theorem commandHeld_writeReg (r : RegName) (v : Word) (hb : State.busy s = true) :
    commandHeld (writeReg r v s) = commandHeld s := by
  rcases writeReg_eq r v s with ⟨-, e⟩ | ⟨-, e⟩ | ⟨-, -, -, e⟩ | ⟨-, hidle, -⟩ | ⟨-, -, -, hidle, -⟩
  · rw [e]; rfl
  · rw [e]; rfl
  · rw [e]; rfl
  · simp [hb] at hidle
  · simp [hb] at hidle

theorem commandHeld_hostWrite (off : Offset) (v : Word) (strb : BitVec 4) (hb : State.busy s = true) :
    commandHeld (hostWrite off v strb s) = commandHeld s := by
  rcases hostWrite_eq off v strb s with ⟨-, e⟩ | ⟨r, -, -, -, e⟩ <;> rw [e]
  · rfl
  · exact commandHeld_writeReg r v hb

theorem HostEvent.commandHeld (h : HostEvent s t) (hb : State.busy s = true) : commandHeld t = commandHeld s := by
  cases h with
  | quiet h => rw [h]; rfl
  | write off v strb h => rw [h]; exact commandHeld_hostWrite off v strb hb

/-- Settles O24: a transfer or a line of the host program makes at most one write (`HostEvent`), which a busy engine
discards unless it is to CTRL or STATUS. -/
theorem operandsStableInFlight : Obligations.OperandsStableInFlight := by
  intro s t hb h
  have hevent : HostEvent s t := by
    rcases h with ⟨tr, htr⟩ | hprog
    · exact .transfer htr
    · exact .programStep hprog
  simpa only [commandHeld, Prod.mk.injEq] using hevent.commandHeld hb

/-! ## What a completion may write (R73, R255) -/

theorem Stored.byteAt_eq {a : Nat} (h : Stored s u) (ha : a < outBase ∨ outBase + s.bufBytes ≤ a) :
    byteAt u a = byteAt s a := by
  cases h with
  | nothing | res | stateBlock | blkOut | schedule => rfl
  | out bytes len hfits => exact byteAt_writeOut_outside bytes len s a (by omega)

/-- Settles O36: the one thing a command stores in memory is a result that fits OUT (`exec_completed`). -/
theorem engineWritesOnlyOut : Obligations.EngineWritesOnlyOut := by
  intro i s t h a ha
  cases exec_completed h with
  | error => rfl
  | ok hstored => exact hstored.byteAt_eq ha

/-! ## The turn that a step runs (R74, R203, R240) -/

/-- A decoded command carries a ROUND of four bits, if any (R92). -/
theorem wellFormed_of_decode {w : Word} {i : Instr} (h : decode w = .ok i) : i.wellFormed = true := by
  unfold decode at h
  split at h
  · split at h <;> cases h
    exact decide_eq_true (Nat.le_of_lt_succ (roundField w).isLt)
  · split at h
    · cases h
    · split at h <;> cases h
      next hlookup =>
        obtain ⟨before, after, hsplit, -⟩ := List.lookup_eq_some_iff.1 hlookup
        have hmem : (opcodeField w, i) ∈ opMap := by simp [hsplit]
        exact (show ∀ p ∈ opMap, p.2.wellFormed = true by decide) _ hmem

theorem step_of_head? {turn : Turn} (h : s.turns.head? = some turn) : step s = takeTurn turn (dropTurn s) := by
  obtain ⟨rest, hturns⟩ := List.head?_eq_some_iff.1 h
  rw [step, nextEvent, hturns]

theorem dropTurn_of_nil (h : s.turns = []) : dropTurn s = s := by
  rw [dropTurn, h, List.tail_nil, ← h]

/-- The engine's turn is due when it is offered, and for a command in flight also when no turn is (log 1). -/
theorem step_eq_completeWord {w : Word} (hw : s.latched = some w) (h : s.turns = [] ∨ s.turns.head? = some .engine) :
    step s = completeWord w (dropTurn s) := by
  have hengine : step s = engineStep (dropTurn s) := by
    rcases h with hnil | hhead
    · rcases step_eq s with ⟨-, -, e⟩ | ⟨-, hidle, -⟩ | ⟨turn, rest, hturns, -⟩
      · rw [e, dropTurn_of_nil hnil]
      · simp [State.busy, hw] at hidle
      · simp [hnil] at hturns
    · exact step_of_head? hhead
  rw [hengine, engineStep, dropTurn_latched, hw]

/-- Settles O5: the offered turn is taken (`step_of_head?`), and with none offered the command in flight completes or the
host program goes on. -/
theorem stepRunsTheTurn : Obligations.StepRunsTheTurn := by
  refine ⟨fun s w i hw hdec hdue => ⟨wellFormed_of_decode hdec, ?_⟩, fun s w e hw hdec hdue => ?_, fun s hidle h => ?_,
    fun s tr h => step_of_head? h, fun s h => step_of_head? h, fun s h => step_of_head? h, fun s hidle hnil => ?_⟩
  · rw [step_eq_completeWord hw hdue, completeWord, hdec]
  · rw [step_eq_completeWord hw hdue, completeWord, hdec]
    rfl
  · rw [step_of_head? h, takeTurn, engineStep, dropTurn_latched, hidle]
  · rcases step_eq s with ⟨-, hbusy, -⟩ | ⟨-, -, e⟩ | ⟨turn, rest, hturns, -⟩
    · simp [State.busy, hidle] at hbusy
    · exact e
    · simp [hnil] at hturns

end Sys2Proof.Machine
end

section
/-! PROOFS. Decoder and encoder both ways (R90 to R98), and what an illegal word does (R93, R219). -/

namespace Sys2Proof.Machine

/-! ## The fields of a command word (R90 to R92) -/

/-- A word is its reserved bits, ROUND and OPCODE (R90). -/
theorem append_fields (w : Word) : w.extractLsb' 12 20 ++ (roundField w ++ opcodeField w) = w := by
  unfold roundField opcodeField
  rw [BitVec.extractLsb'_append_extractLsb'_eq_extractLsb' (by rfl),
    BitVec.extractLsb'_append_extractLsb'_eq_extractLsb' (by rfl)]
  exact BitVec.extractLsb'_eq_self

/-- A word without an operand field is its reserved bits and OPCODE (R90). -/
theorem append_opcodeField (w : Word) : w.extractLsb' 8 24 ++ opcodeField w = w := by
  unfold opcodeField
  rw [BitVec.extractLsb'_append_extractLsb'_eq_extractLsb' (by rfl)]
  exact BitVec.extractLsb'_eq_self

/-! ## The opcode map (R97, R98) -/

/-- Every OPCODE of the map stands there once, so that looking it up is standing there. -/
theorem opMap_lookup_eq_some_iff (op : Byte) (i : Instr) : opMap.lookup op = some i ↔ (op, i) ∈ opMap := by
  constructor
  · intro h
    obtain ⟨before, after, hsplit, -⟩ := List.lookup_eq_some_iff.1 h
    simp [hsplit]
  · exact fun h => (show ∀ p ∈ opMap, opMap.lookup p.1 = some p.2 by decide) _ h

/-- Every command but ADD_ROUND_KEY stands in the map, under its OPCODE. -/
theorem opcode_mem_opMap (i : Instr) :
    (∃ round, i = .addRoundKey round) ∨ (Laws.CommandWord.opcode i, i) ∈ opMap := by
  cases i with
  | addRoundKey round => exact .inl ⟨round, rfl⟩
  | _ => exact .inr (by decide)

theorem encode_of_mem_opMap {op : Byte} {i : Instr} (h : (op, i) ∈ opMap) : encode i = 0#24 ++ op :=
  (show ∀ p ∈ opMap, encode p.2 = 0#24 ++ p.1 by decide) _ h

theorem ne_addRoundKey_opcode_of_mem_opMap {op : Byte} {i : Instr} (h : (op, i) ∈ opMap) : op ≠ 0x16 :=
  (show ∀ p ∈ opMap, p.1 ≠ 0x16 by decide) _ h

theorem encode_addRoundKey_toNat (round : BitVec 4) :
    encode (.addRoundKey round.toNat) = 0#20 ++ (round ++ (0x16 : Byte)) := by
  decide +revert

/-! ## What the decoder answers (R93, R97) -/

/-- The two ways a word is legal: ADD_ROUND_KEY with its ROUND, and an OPCODE of the map with 0 in bits [31:8]. -/
theorem decode_eq_ok_iff (w : Word) (i : Instr) : decode w = .ok i ↔
    (opcodeField w = 0x16 ∧ w.extractLsb' 12 20 = 0 ∧ i = .addRoundKey (roundField w).toNat) ∨
    ((opcodeField w, i) ∈ opMap ∧ w.extractLsb' 8 24 = 0) := by
  unfold decode
  split
  · next hop =>
    rw [or_iff_left fun h => ne_addRoundKey_opcode_of_mem_opMap h.1 hop, and_iff_right hop]
    split
    · next hbits => exact iff_of_false nofun fun h => hbits h.1
    · next hbits => rw [and_iff_right (not_not.1 hbits), Except.ok.injEq, eq_comm]
  · next hop =>
    rw [or_iff_right fun h => hop h.1]
    split
    · next hbits => exact iff_of_false nofun fun h => hbits h.2
    · next hbits =>
      rw [and_iff_left (not_not.1 hbits), ← opMap_lookup_eq_some_iff]
      cases opMap.lookup (opcodeField w) <;> simp

theorem decode_zero_append {op : Byte} {i : Instr} (h : (op, i) ∈ opMap) : decode (0#24 ++ op) = .ok i := by
  have hop : opcodeField (0#24 ++ op) = op := BitVec.extractLsb'_append_eq_right
  exact (decode_eq_ok_iff _ i).2 (.inr ⟨hop.symm ▸ h, BitVec.extractLsb'_append_eq_left⟩)

theorem decode_encode_addRoundKey {round : Nat} (h : (Instr.addRoundKey round).wellFormed = true) :
    decode (encode (.addRoundKey round)) = .ok (.addRoundKey round) := by
  obtain ⟨hop, hround, hbits⟩ := Laws.CommandWord.addRoundKey round h
  exact (decode_eq_ok_iff _ _).2 (.inl ⟨hop, hbits, congrArg Instr.addRoundKey hround.symm⟩)

/-- Settles O1: ADD_ROUND_KEY's word carries ROUND in its field (`decode_encode_addRoundKey`), and every other word is the
OPCODE under which the map has the command (`decode_zero_append`). -/
theorem decodeEncodeAgree : Obligations.DecodeEncodeAgree := by
  intro i hwf
  rcases opcode_mem_opMap i with ⟨round, rfl⟩ | hmem
  · exact decode_encode_addRoundKey hwf
  · rw [encode_of_mem_opMap hmem]
    exact decode_zero_append hmem

theorem encode_of_decode {w : Word} {i : Instr} (h : decode w = .ok i) : encode i = w := by
  rcases (decode_eq_ok_iff w i).1 h with ⟨hop, hbits, rfl⟩ | ⟨hmem, hbits⟩
  · calc encode (.addRoundKey (roundField w).toNat)
        = w.extractLsb' 12 20 ++ (roundField w ++ opcodeField w) := by
          rw [encode_addRoundKey_toNat, hop, hbits]; rfl
      _ = w := append_fields w
  · calc encode i = w.extractLsb' 8 24 ++ opcodeField w := by rw [encode_of_mem_opMap hmem, hbits]; rfl
      _ = w := append_opcodeField w

/-- Settles O2: the fields of a legal word are those that the encoder writes (`encode_of_decode`). -/
theorem encodeDecodeAgree : Obligations.EncodeDecodeAgree :=
  fun _ _ h => ⟨wellFormed_of_decode h, encode_of_decode h⟩

/-- Settles O3: each word's OPCODE, looked up in the map, and its reserved bits. -/
theorem sampleWordsDecode : Obligations.SampleWordsDecode :=
  ⟨rfl, rfl, rfl, rfl, rfl, rfl, rfl, rfl, rfl, rfl, rfl, rfl, rfl⟩

/-! ## Illegal words (R93, R202, R219) -/

theorem exists_decode_eq_ok_iff (w : Word) : (∃ i, decode w = .ok i) ↔
    (opcodeField w = 0x16 ∧ w.extractLsb' 12 20 = 0) ∨
    (opcodeField w ∈ opMap.map Prod.fst ∧ w.extractLsb' 8 24 = 0) := by
  simp only [decode_eq_ok_iff, exists_or, exists_and_left, exists_and_right, exists_eq, and_true, List.mem_map,
    Prod.exists, exists_eq_right]

theorem hostWrite_cmd {s : State} (w : Word) (h : State.busy s = false) :
    hostWrite 0x018 w 0b1111 s = { issue w s with resp := some .okayWrite } := by
  rw [hostWrite_at (r := .cmd) w rfl rfl, respond_okayWrite, writeReg, if_neg (by simp [h])]

theorem engineStep_of_illegal {s : State} {w : Word} (hw : s.latched = some w) (h : ¬ ∃ i, decode w = .ok i) :
    engineStep s = .next (finish .illegalCommand s) := by
  rcases engineStep_eq s with ⟨hidle, -⟩ | ⟨v, i, hv, hdec, -⟩ | ⟨_, _, -, -, e⟩
  · simp [hw] at hidle
  · rw [hw] at hv
    cases hv
    exact absurd ⟨i, hdec⟩ h
  · exact e

/-- The list of R98's OPCODEs is the map's and ADD_ROUND_KEY's. -/
theorem mem_opcodes_iff (op : Byte) :
    op ∈ ([0x00, 0x01, 0x02, 0x03, 0x04, 0x05, 0x06, 0x10, 0x11, 0x12, 0x13, 0x14, 0x15, 0x16, 0x20, 0x21,
      0x22, 0x30, 0x31, 0x32, 0x33, 0x34] : List Byte) ↔ op = 0x16 ∨ op ∈ opMap.map Prod.fst := by
  decide +revert

/-- Settles O4: a word is legal in two ways (`exists_decode_eq_ok_iff`), of which the OPCODE leaves one; CMD takes any
word (`hostWrite_cmd`), and the engine completes an illegal one (`engineStep_of_illegal`). -/
theorem legalWordsAndIllegalCompletion : Obligations.LegalWordsAndIllegalCompletion := by
  refine ⟨fun w => ?_, fun w hillegal =>
    ⟨fun s hidle => hostWrite_cmd w hidle, fun s hw => engineStep_of_illegal hw hillegal⟩⟩
  rw [exists_decode_eq_ok_iff, mem_opcodes_iff, opcodeField]
  split
  · next hop =>
    have hnot : w.extractLsb' 0 8 ∉ opMap.map Prod.fst := by rw [hop]; decide
    rw [or_iff_left fun h => hnot h.1, or_iff_left hnot]
  · next hop => rw [or_iff_right fun h => hop h.1, or_iff_right hop]

end Sys2Proof.Machine
end

section
/-! PROOFS. The lines of a host program, one step of each (R99). -/

namespace Sys2Proof.Machine

variable {s s' t u : State}

/-! ## What a host write keeps and what it does not look at (R99) -/

/-- The host program and its position, its record of reads and its held value (R99, log 12). -/
def programFields (s : State) : List HostLine × Nat × List (Nat × Word) × Option Word :=
  (s.program, s.pos, s.lastReads, s.held)

theorem programFields_storeReg (r : RegName) (v : Word) (s : State) :
    programFields (storeReg r v s) = programFields s := by
  cases r <;> rfl

theorem programFields_writeReg (r : RegName) (v : Word) (s : State) :
    programFields (writeReg r v s) = programFields s := by
  rcases writeReg_eq r v s with ⟨-, e⟩ | ⟨-, e⟩ | ⟨-, -, -, e⟩ | ⟨-, -, e⟩ | ⟨-, -, -, -, e⟩ <;> rw [e]
  · rfl
  · rfl
  · rfl
  · rfl
  · exact programFields_storeReg r v s

theorem programFields_hostWrite (off : Offset) (v : Word) (strb : BitVec 4) (s : State) :
    programFields (hostWrite off v strb s) = programFields s := by
  rcases hostWrite_eq off v strb s with ⟨-, e⟩ | ⟨r, -, -, -, e⟩ <;> rw [e]
  · rfl
  · exact programFields_writeReg r v s

@[simp] theorem hostWrite_pos (off : Offset) (v : Word) (strb : BitVec 4) (s : State) :
    (hostWrite off v strb s).pos = s.pos :=
  congrArg (·.2.1) (programFields_hostWrite off v strb s)

@[simp] theorem hostWrite_lastReads (off : Offset) (v : Word) (strb : BitVec 4) (s : State) :
    (hostWrite off v strb s).lastReads = s.lastReads :=
  congrArg (·.2.2.1) (programFields_hostWrite off v strb s)

theorem HostFieldsOnly.ite {c : Prop} [Decidable c] (h : HostFieldsOnly s t) (h' : HostFieldsOnly s' u) :
    HostFieldsOnly (if c then s else s') (if c then t else u) := by
  split
  · exact h
  · exact h'

theorem HostFieldsOnly.respond (r : Response) (h : HostFieldsOnly s t) :
    HostFieldsOnly (respond r s) (respond r t) := by
  rw [h]; rfl

theorem HostFieldsOnly.setOverrun (h : HostFieldsOnly s t) : HostFieldsOnly (setOverrun s) (setOverrun t) := by
  rw [h]; rfl

theorem HostFieldsOnly.storeReg (r : RegName) (v : Word) (h : HostFieldsOnly s t) :
    HostFieldsOnly (storeReg r v s) (storeReg r v t) := by
  rw [h]
  cases r <;> rfl

theorem HostFieldsOnly.writeReg (r : RegName) (v : Word) (h : HostFieldsOnly s t) :
    HostFieldsOnly (writeReg r v s) (writeReg r v t) := by
  cases r with
  | status | ctrl => rw [h]; rfl
  | cmd =>
    simp only [Machine.writeReg, h.busy]
    exact .ite h.setOverrun (by rw [h]; rfl)
  | _ =>
    simp only [Machine.writeReg, h.busy]
    exact .ite h.setOverrun (h.storeReg _ v)

/-- The host's fields are no part of the engine: neither its datapath, nor CTRL, STATUS and the latched word. -/
theorem HostFieldsOnly.engine (h : HostFieldsOnly s t) :
    datapath t = datapath s ∧ t.latched = s.latched ∧ t.ie = s.ie ∧ t.done = s.done ∧ t.ovr = s.ovr ∧ t.err = s.err := by
  rw [h]
  exact ⟨rfl, rfl, rfl, rfl, rfl, rfl⟩

/-- A write does to the engine the same whatever the host program has read or holds. -/
theorem HostFieldsOnly.hostWrite (off : Offset) (v : Word) (strb : BitVec 4) (h : HostFieldsOnly s t) :
    HostFieldsOnly (hostWrite off v strb s) (hostWrite off v strb t) := by
  unfold Machine.hostWrite
  rw [h.bufBytes]
  refine .ite (h.respond _) ?_
  cases regAt s.bufBytes off with
  | none => exact h.respond _
  | some r => exact (h.writeReg r v).respond _

/-! ## One step of a line (R99) -/

theorem programStep_of_line {l : HostLine} (h : s.program[s.pos]? = some l) : programStep s = runLine l s := by
  rw [programStep, h]

theorem programRead_of_hostRead {r : RegName} {v : Word} (h : hostRead (offsetOf r) s = .ok (v, s'))
    (rest : Word → State → State) : programRead r s rest = .next (rest v (noteRead (offsetOf r) v s')) := by
  rw [programRead, h]

theorem hostRead_pos {off : Offset} {v : Word} (h : hostRead off s = .ok (v, t)) : t.pos = s.pos := by
  rw [hostRead_state h]

/-- After its read the host program stands at the line it stood at. -/
theorem hostRead_line {off : Offset} {v : Word} (h : hostRead off s = .ok (v, t)) :
    t.program[t.pos]? = s.program[s.pos]? := by
  rw [hostRead_state h]

theorem hostRead_lastReads {off : Offset} {v : Word} (h : hostRead off s = .ok (v, t)) :
    t.lastReads = s.lastReads := by
  rw [hostRead_state h]

theorem readNoted_noteRead {r : RegName} {v : Word} (h : hostRead (offsetOf r) s = .ok (v, s')) :
    readNoted r v s (noteRead (offsetOf r) v s') := by
  intro n
  rw [noteRead_lastReads, entryGet_entryPut, hostRead_lastReads h]
  simp only [eq_comm]

theorem programStep_wr {r : RegName} {v : Word} (h : s.program[s.pos]? = some (.wr r v)) :
    programStep s = .next { hostWrite (offsetOf r) v 0b1111 s with pos := s.pos + 1 } := by
  rw [programStep_of_line h, ← hostWrite_pos (offsetOf r) v 0b1111 s]
  rfl

theorem programStep_cmd {i : Instr} (h : s.program[s.pos]? = some (.cmd i)) :
    programStep s = .next { hostWrite 0x018 (encode i) 0b1111 s with pos := s.pos + 1 } := by
  rw [programStep_of_line h, ← hostWrite_pos 0x018 (encode i) 0b1111 s]
  rfl

theorem programStep_rd {r : RegName} {v : Word} (h : s.program[s.pos]? = some (.rd r))
    (hread : hostRead (offsetOf r) s = .ok (v, s')) :
    programStep s = .next (nextLine (noteRead (offsetOf r) v s')) := by
  rw [programStep_of_line h, runLine, programRead_of_hostRead hread]

theorem programStep_poll {r : RegName} {mask value v : Word} (h : s.program[s.pos]? = some (.poll r mask value))
    (hread : hostRead (offsetOf r) s = .ok (v, s')) :
    programStep s = .next { noteRead (offsetOf r) v s' with
      pos := if v &&& mask = value then s.pos + 1 else s.pos } := by
  rw [programStep_of_line h, runLine, programRead_of_hostRead hread, ← hostRead_pos hread]
  split <;> rfl

theorem programStep_copy_read {dst src : RegName} {v : Word} (h : s.program[s.pos]? = some (.copy dst src))
    (hheld : s.held = none) (hread : hostRead (offsetOf src) s = .ok (v, s')) :
    programStep s = .next (setHeld (some v) (noteRead (offsetOf src) v s')) := by
  rw [programStep_of_line h, runLine, hheld]
  exact programRead_of_hostRead hread _

theorem programStep_copy_write {dst src : RegName} {v : Word} (h : s.program[s.pos]? = some (.copy dst src))
    (hheld : s.held = some v) :
    programStep s = .next { hostWrite (offsetOf dst) v 0b1111 s with pos := s.pos + 1, held := none } := by
  rw [programStep_of_line h, runLine, hheld, ← hostWrite_pos (offsetOf dst) v 0b1111 s]
  rfl

theorem programStep_bnz_read {r : RegName} {mask v : Word} {target : Nat}
    (h : s.program[s.pos]? = some (.bnz r mask target)) (hlast : entryGet (offsetOf r).toNat s.lastReads = some v) :
    programStep s = .next { s with pos := if v &&& mask ≠ 0 then target else s.pos + 1 } := by
  rw [programStep_of_line h, runLine, branch, hlast]
  dsimp only
  split <;> rfl

theorem programStep_bnz_unread {r : RegName} {mask : Word} {target : Nat}
    (h : s.program[s.pos]? = some (.bnz r mask target)) (hlast : entryGet (offsetOf r).toNat s.lastReads = none) :
    programStep s = .next { s with
      draws := s.draws + 1, pos := if Config.freeRead s.draws &&& mask ≠ 0 then target else s.pos + 1 } := by
  rw [programStep_of_line h, runLine, branch, hlast]
  dsimp only
  split <;> rfl

theorem programStep_of_ended (h : programEnded s = true) : programStep s = .next s := by
  rw [programStep, List.getElem?_eq_none (of_decide_eq_true h)]

/-- Settles O25: one equation a line. Between the two steps of a `copy` only the host's own fields have changed, so its
write does to the engine what it would before the read (`HostFieldsOnly.hostWrite`). -/
theorem hostLinesMove : Obligations.HostLinesMove := by
  refine ⟨fun s s' dst src v h hheld hread => ?_, fun s s' r mask value v h hread => ?_, fun s s' r v h hread => ?_,
    fun s r mask target h => ⟨fun v => programStep_bnz_read h, programStep_bnz_unread h⟩,
    fun s i => programStep_cmd, fun s target h => programStep_of_line h, fun s h => ?_, fun s r v => programStep_wr⟩
  · have hst : HostFieldsOnly s (setHeld (some v) (noteRead (offsetOf src) v s')) :=
      (HostFieldsOnly.hostRead hread).trans rfl
    have hwrite := programStep_copy_write (s := setHeld (some v) (noteRead (offsetOf src) v s'))
      ((hostRead_line hread).trans h) rfl
    refine ⟨_, _, programStep_copy_read h hheld hread, rfl, readNoted_noteRead hread, ?_, hwrite,
      by rw [← hostRead_pos hread]; rfl, (hst.hostWrite (offsetOf dst) v 0b1111).engine⟩
    exact hostWrite_lastReads (offsetOf dst) v 0b1111 _
  · have hst : HostFieldsOnly s s' := .hostRead hread
    refine ⟨_, programStep_poll h hread, hst.engine.1, rfl, readNoted_noteRead hread, rfl,
      fun mask' target hbnz => ⟨_, programStep_bnz_read hbnz ?_, rfl⟩⟩
    exact entryGet_entryPut_self _ v s'.lastReads
  · exact ⟨_, programStep_rd h hread, by rw [← hostRead_pos hread]; rfl, readNoted_noteRead hread⟩
  · exact ⟨_, programStep_of_line h, rfl, by simp [programEnded], programStep_of_ended (by simp [programEnded])⟩

end Sys2Proof.Machine
end

section
/-! PROOFS. The field GF(2^8): how doubling and the multiplication loop act on sums, the laws of the field, and the two
commands GF_XTIME and GF_MUL (R121 to R125). -/

namespace Sys2Proof.Machine

/-! ## Doubling and the multiplication loop (R121, R122) -/

theorem xor_xor_xor_cancel_right (a b c : Byte) : (a ^^^ c) ^^^ (b ^^^ c) = a ^^^ b := by
  rw [BitVec.xor_comm b, BitVec.xor_assoc, ← BitVec.xor_assoc c, BitVec.xor_self, BitVec.zero_xor]

theorem xtime_xor (a b : Byte) : xtime (a ^^^ b) = xtime a ^^^ xtime b := by
  have hshift : (a ^^^ b) <<< 1 = a <<< 1 ^^^ b <<< 1 := BitVec.shiftLeft_xor_distrib a b 1
  unfold xtime
  rw [BitVec.getLsbD_xor, hshift]
  cases a.getLsbD 7 <;> cases b.getLsbD 7
  · rfl
  · exact BitVec.xor_assoc ..
  · show a <<< 1 ^^^ b <<< 1 ^^^ 0x1B = a <<< 1 ^^^ 0x1B ^^^ b <<< 1
    ac_rfl
  · exact (xor_xor_xor_cancel_right ..).symm

/-- Doubling in integer arithmetic: bit 7 is what the byte has from 128 on. -/
theorem xtime_eq_ofNat (a : Byte) : xtime a =
    if 128 ≤ a.toNat then BitVec.ofNat 8 (2 * a.toNat) ^^^ 0x1B else BitVec.ofNat 8 (2 * a.toNat) := by
  have hbit : a.getLsbD 7 = decide (128 ≤ a.toNat) :=
    (BitVec.msb_eq_getLsbD_last a).symm.trans (BitVec.msb_eq_decide a)
  have hshift : a <<< 1 = BitVec.ofNat 8 (2 * a.toNat) := by
    rw [← BitVec.toNat_inj, BitVec.toNat_shiftLeft, BitVec.toNat_ofNat, Nat.shiftLeft_eq, Nat.mul_comm, Nat.pow_one]
  simp only [xtime, hbit, hshift, decide_eq_true_eq]

theorem gfMulLoop_xor_left (b : Byte) (is : List Nat) : ∀ p q a c : Byte,
    gfMulLoop b is (p ^^^ q) (a ^^^ c) = gfMulLoop b is p a ^^^ gfMulLoop b is q c := by
  induction is with
  | nil => intro p q a c; rfl
  | cons i is ih =>
    intro p q a c
    simp only [gfMulLoop, xtime_xor, ← ih]
    congr 1
    split
    · ac_rfl
    · rfl

theorem gfMulLoop_xor_right (b c : Byte) (is : List Nat) : ∀ p q a : Byte,
    gfMulLoop (b ^^^ c) is (p ^^^ q) a = gfMulLoop b is p a ^^^ gfMulLoop c is q a := by
  induction is with
  | nil => intro p q a; rfl
  | cons i is ih =>
    intro p q a
    simp only [gfMulLoop, ← ih, BitVec.getLsbD_xor]
    congr 1
    cases b.getLsbD i <;> cases c.getLsbD i
    · rfl
    · exact BitVec.xor_assoc ..
    · show p ^^^ q ^^^ a = p ^^^ a ^^^ q
      ac_rfl
    · exact (xor_xor_xor_cancel_right ..).symm

theorem gfMulLoop_xtime (b : Byte) (is : List Nat) : ∀ p a : Byte,
    gfMulLoop b is (xtime p) (xtime a) = xtime (gfMulLoop b is p a) := by
  induction is with
  | nil => intro p a; rfl
  | cons i is ih =>
    intro p a
    simp only [gfMulLoop, ← ih, ← xtime_xor, apply_ite xtime]

/-- What sums and doubles inherit holds of the loop's result when it holds of its two running values. -/
theorem gfMulLoop_of_closed {P : Byte → Prop} (hxor : ∀ a b, P a → P b → P (a ^^^ b)) (hxtime : ∀ a, P a → P (xtime a))
    (b : Byte) (is : List Nat) : ∀ p a : Byte, P p → P a → P (gfMulLoop b is p a) := by
  induction is with
  | nil => intro p a hp _; exact hp
  | cons i is ih =>
    intro p a hp ha
    refine ih _ _ ?_ (hxtime a ha)
    split
    · exact hxor p a hp ha
    · exact hp

/-! ## Multiplication on sums, doubles and the identity (R122) -/

theorem xor_gfMul (a b c : Byte) : gfMul (a ^^^ b) c = gfMul a c ^^^ gfMul b c := gfMulLoop_xor_left c _ 0 0 a b

theorem gfMul_xor (a b c : Byte) : gfMul a (b ^^^ c) = gfMul a b ^^^ gfMul a c := gfMulLoop_xor_right b c _ 0 0 a

theorem xtime_gfMul (a b : Byte) : gfMul (xtime a) b = xtime (gfMul a b) := gfMulLoop_xtime b _ 0 a

theorem gfMul_zero (a : Byte) : gfMul a 0 = 0 := rfl

theorem gfMul_one (a : Byte) : gfMul a 1 = a := BitVec.zero_xor

theorem gfMul_two (a : Byte) : gfMul a 2 = xtime a := BitVec.zero_xor

theorem one_gfMul : ∀ a : Byte, gfMul 1 a = a := by decide

/-- Every byte is a sum of doubles of 0x01: the bits of a add up to `gfMul 1 a`. -/
theorem byte_induction {P : Byte → Prop} (one : P 1) (xor : ∀ a b, P a → P b → P (a ^^^ b))
    (double : ∀ a, P a → P (xtime a)) (a : Byte) : P a := by
  have hzero : P 0 := xor 1 1 one one
  rw [← one_gfMul a]
  exact gfMulLoop_of_closed xor double a _ 0 1 hzero one

theorem gfMul_xtime (a b : Byte) : gfMul a (xtime b) = xtime (gfMul a b) := by
  induction a using byte_induction with
  | one => rw [one_gfMul, one_gfMul]
  | xor a c iha ihc => rw [xor_gfMul, iha, ihc, xor_gfMul, xtime_xor]
  | double a ih => rw [xtime_gfMul, ih, xtime_gfMul]

/-! ## The laws of the field (R125) -/

theorem gfMul_comm (a b : Byte) : gfMul a b = gfMul b a := by
  induction a using byte_induction with
  | one => rw [one_gfMul, gfMul_one]
  | xor a c iha ihc => rw [xor_gfMul, iha, ihc, gfMul_xor]
  | double a ih => rw [xtime_gfMul, ih, gfMul_xtime]

theorem gfMul_assoc (a b c : Byte) : gfMul (gfMul a b) c = gfMul a (gfMul b c) := by
  induction a using byte_induction with
  | one => rw [one_gfMul, one_gfMul]
  | xor a d iha ihd => rw [xor_gfMul, xor_gfMul, iha, ihd, xor_gfMul]
  | double a ih => rw [xtime_gfMul, xtime_gfMul, ih, xtime_gfMul]

theorem gfMul_left_comm (a b c : Byte) : gfMul a (gfMul b c) = gfMul b (gfMul a c) := by
  rw [← gfMul_assoc, gfMul_comm a b, gfMul_assoc]

/-! ## Squaring, and the inverse of a nonzero byte (R125) -/

def gfSquare (a : Byte) : Byte := gfMul a a

/-- Squaring is additive: the two mixed products cancel. -/
theorem gfSquare_xor (a b : Byte) : gfSquare (a ^^^ b) = gfSquare a ^^^ gfSquare b := by
  rw [gfSquare, xor_gfMul, gfMul_xor, gfMul_xor, gfMul_comm b a, BitVec.xor_comm (gfMul a b), xor_xor_xor_cancel_right]
  rfl

theorem gfSquare_gfMul (a b : Byte) : gfSquare (gfMul a b) = gfMul (gfSquare a) (gfSquare b) := by
  simp only [gfSquare, gfMul_assoc, gfMul_left_comm b a]

theorem gfSquare_iterate_xor (n : Nat) (a b : Byte) : gfSquare^[n] (a ^^^ b) = gfSquare^[n] a ^^^ gfSquare^[n] b :=
  Function.Semiconj₂.iterate gfSquare_xor n a b

theorem gfSquare_iterate_gfMul (n : Nat) (a b : Byte) :
    gfSquare^[n] (gfMul a b) = gfMul (gfSquare^[n] a) (gfSquare^[n] b) :=
  Function.Semiconj₂.iterate gfSquare_gfMul n a b

/-- Squaring eight times gives the byte back: a^256 = a. -/
theorem gfSquare_iterate_eight (a : Byte) : gfSquare^[8] a = a := by
  induction a using byte_induction with
  | one => rfl
  | xor a b iha ihb => rw [gfSquare_iterate_xor, iha, ihb]
  | double a ih =>
    have htwo : gfSquare^[8] 2 = 2 := by decide
    rw [← gfMul_two, gfSquare_iterate_gfMul, ih, htwo]

/-- Every repeated square of a has the factor a. -/
theorem exists_gfSquare_iterate_eq_gfMul (n : Nat) (a : Byte) : ∃ b, gfSquare^[n] a = gfMul a b := by
  induction n generalizing a with
  | zero => exact ⟨1, (gfMul_one a).symm⟩
  | succ n ih =>
    obtain ⟨b, hb⟩ := ih (gfSquare a)
    exact ⟨gfMul a b, by rw [Function.iterate_succ_apply, hb, gfSquare, gfMul_assoc]⟩

/-- Were the reduction polynomial of R120 a product of two without a common factor, the ring would split and have more
bytes that are their own squares. -/
theorem eq_zero_or_one_of_gfSquare_eq : ∀ e : Byte, gfSquare e = e → e = 0 ∨ e = 1 := by decide

/-- a is its own eighth repeated square, so it is a • a • b for some b. Then b • a is its own square, and it is not 0x00
unless a is. -/
theorem exists_gfMul_eq_one {a : Byte} (ha : a ≠ 0) : ∃ b, gfMul b a = 1 := by
  obtain ⟨b, hb⟩ := exists_gfSquare_iterate_eq_gfMul 7 (gfSquare a)
  have hab : gfMul a (gfMul b a) = a := by
    rw [gfMul_comm b, ← gfMul_assoc, ← gfSquare, ← hb, ← Function.iterate_succ_apply, gfSquare_iterate_eight]
  have hidem : gfSquare (gfMul b a) = gfMul b a := by rw [gfSquare, gfMul_assoc, hab]
  rcases eq_zero_or_one_of_gfSquare_eq _ hidem with hzero | hone
  · rw [hzero, gfMul_zero] at hab
    exact absurd hab.symm ha
  · exact ⟨b, hone⟩

theorem eq_of_gfMul_eq_one {a b c : Byte} (hb : gfMul b a = 1) (hc : gfMul c a = 1) : c = b :=
  calc c = gfMul c (gfMul b a) := by rw [hb, gfMul_one]
    _ = gfMul b (gfMul c a) := gfMul_left_comm c b a
    _ = b := by rw [hc, gfMul_one]

/-- Settles O40: commutativity and associativity by induction on the first factor, a sum of doubles
(`byte_induction`), and inverses from a^256 = a (`exists_gfMul_eq_one`). -/
theorem fieldLaws : Obligations.FieldLaws :=
  ⟨gfMul_comm, gfMul_assoc, gfMul_xor, gfMul_one, gfMul_zero, fun a => (gfMul_two a).symm, fun _ ha =>
    (exists_gfMul_eq_one ha).imp fun _ hb => ⟨hb, fun _ => eq_of_gfMul_eq_one hb⟩⟩

/-! ## The commands (R123, R124) -/

/-- The sum over the positions i in `is` whose bit is 1 of a doubled i times. -/
def doublesSum (bit : Nat → Bool) (a : Byte) (is : List Nat) : Byte :=
  is.foldr (fun i p => (if bit i then xtime^[i] a else 0) ^^^ p) 0

theorem doublesSum_cons (bit : Nat → Bool) (a : Byte) (i : Nat) (is : List Nat) :
    doublesSum bit a (i :: is) = (if bit i then xtime^[i] a else 0) ^^^ doublesSum bit a is := rfl

theorem gfMulLoop_range' (a b : Byte) (k : Nat) : ∀ (n : Nat) (p : Byte),
    gfMulLoop b (List.range' n k) p (xtime^[n] a) = p ^^^ doublesSum b.getLsbD a (List.range' n k) := by
  induction k with
  | zero => intro n p; exact BitVec.xor_zero.symm
  | succ k ih =>
    intro n p
    rw [List.range'_succ, gfMulLoop, ← Function.iterate_succ_apply' xtime n a, ih, doublesSum_cons, ← BitVec.xor_assoc]
    split
    · rfl
    · exact congrArg (· ^^^ _) BitVec.xor_zero.symm

theorem gfMul_eq_doublesSum (a b : Byte) : gfMul a b = doublesSum b.getLsbD a (List.range 8) :=
  (gfMulLoop_range' a b 8 0 0).trans BitVec.zero_xor

/-- OPB[7:0] has the bits of OPB at the eight positions of a byte (R33). -/
theorem doublesSum_opbByte (s : State) (a : Byte) :
    doublesSum (opbByte s).getLsbD a (List.range 8) = doublesSum s.opb.getLsbD a (List.range 8) := by
  refine List.foldr_ext _ _ 0 fun i hi p => ?_
  rw [opbByte, BitVec.getLsbD_extractLsb', decide_eq_true (List.mem_range.1 hi), Bool.true_and, Nat.zero_add]

/-- Settles O39: the loop adds up the doubles of the first factor (`gfMulLoop_range'`). -/
theorem gfMulResult : Obligations.GfMulResult := by
  refine ⟨rfl, fun s => ?_⟩
  show complete (setResByte (gfMul (opaByte s) (opbByte s)) s) = _
  rw [gfMul_eq_doublesSum, doublesSum_opbByte]
  rfl

/-- Settles O38: the shift within a byte is doubling modulo 256 (`xtime_eq_ofNat`). -/
theorem gfXtimeResult : Obligations.GfXtimeResult := by
  refine ⟨rfl, fun s => ?_⟩
  show complete (setResByte (xtime (opaByte s)) s) = _
  rw [xtime_eq_ofNat]
  rfl

end Sys2Proof.Machine
end

section
/-! PROOFS. Substitution: the two tables against each other and against the field inverse, and the commands SBOX, INV_SBOX,
SUB_WORD and ROT_WORD (R130 to R137). -/

namespace Sys2Proof.Machine

/-! ## The two tables (R130, R131) -/

theorem invSbox_sbox : ∀ a : Byte, invSbox (sbox a) = a := by decide

theorem sbox_invSbox : ∀ a : Byte, sbox (invSbox a) = a := by decide

/-- The affine transform of R130. -/
def affineTransform (b : Byte) : Byte :=
  b ^^^ b.rotateLeft 1 ^^^ b.rotateLeft 2 ^^^ b.rotateLeft 3 ^^^ b.rotateLeft 4 ^^^ 0x63

/-- The inverse table, read at the affine transform of b, holds the inverse of b: one product for each of its entries. -/
theorem gfMul_invSbox_affineTransform : ∀ b : Byte, b ≠ 0 → gfMul b (invSbox (affineTransform b)) = 1 := by decide

/-- A byte has one inverse (`eq_of_gfMul_eq_one`), so a is what the inverse table holds at the affine transform of b. -/
theorem sbox_of_gfMul_eq_one {a b : Byte} (h : gfMul b a = 1) : sbox a = affineTransform b := by
  have hb : b ≠ 0 := by
    rintro rfl
    rw [gfMul_comm, gfMul_zero] at h
    exact absurd h (by decide)
  have hinv := gfMul_invSbox_affineTransform b hb
  rw [gfMul_comm] at h hinv
  rw [eq_of_gfMul_eq_one hinv h, sbox_invSbox]

/-- Settles O41: the nonzero entries by the uniqueness of inverses (`sbox_of_gfMul_eq_one`), and S[0] = 0x63. -/
theorem tablesAreAffineInverse : Obligations.TablesAreAffineInverse := by
  refine ⟨fun a b h => ?_, invSbox_sbox, sbox_invSbox⟩
  rcases h with h | ⟨rfl, rfl⟩
  · exact sbox_of_gfMul_eq_one h
  · rfl

/-! ## The byte commands (R132, R133) -/

theorem exec_sbox (s : State) : exec .sbox s =
    .next { s with res := (sbox (opaByte s)).setWidth 32, err := .ok, latched := none, done := true } := rfl

theorem exec_invSbox (s : State) : exec .invSbox s =
    .next { s with res := (invSbox (opaByte s)).setWidth 32, err := .ok, latched := none, done := true } := rfl

/-- The low byte of a zero-extended byte is the byte (R32, R34). -/
theorem extractLsb'_setWidth_byte (b : Byte) : (b.setWidth 32).extractLsb' 0 8 = b :=
  (BitVec.extractLsb'_setWidth_of_le (by decide)).trans BitVec.extractLsb'_eq_self

/-- Settles O42: INV_SBOX reads back the byte that SBOX zero-extended, and the tables undo each other (`invSbox_sbox`). -/
theorem sboxCommands : Obligations.SboxCommands := by
  refine ⟨rfl, rfl, exec_sbox, exec_invSbox, fun s => ⟨_, _, exec_sbox s, exec_invSbox _, ?_⟩⟩
  simp only [opaByte, extractLsb'_setWidth_byte, invSbox_sbox]

/-! ## The word commands (R134 to R137) -/

theorem exec_subWord (s : State) : exec .subWord s =
    .next { s with res := packWord (subWord (opaCol s)), err := .ok, latched := none, done := true } := rfl

theorem exec_rotWord (s : State) : exec .rotWord s =
    .next { s with res := packWord (rotWord (opaCol s)), err := .ok, latched := none, done := true } := rfl

/-- Counted from the low end, the bytes of a word are its unpacked bytes in reverse order (R63). -/
theorem extractLsb'_eq_get_unpackWord (v : Word) (k : Fin 4) :
    v.extractLsb' (8 * k.val) 8 = Quad.get (unpackWord v) k.rev := by
  rw [get_unpackWord, Fin.val_rev]
  congr 1
  omega

theorem extractLsb'_subWord (v : Word) (k : Fin 4) :
    (packWord (subWord (unpackWord v))).extractLsb' (8 * k.val) 8 = sbox (v.extractLsb' (8 * k.val) 8) := by
  simp only [extractLsb'_eq_get_unpackWord, unpackWord_packWord, subWord, Quad.get_map]

/-- The byte rotation in register form: the low byte comes round from the top, and the other bits move up by 8 (R137). -/
theorem packWord_rotWord (c : Col) : packWord (rotWord c) = packWord c <<< 8 ||| packWord c >>> 24 := by
  apply BitVec.eq_of_getLsbD_eq
  intro i hi
  rw [BitVec.getLsbD_or, BitVec.getLsbD_shiftLeft, BitVec.getLsbD_ushiftRight, decide_eq_true hi, Bool.true_and]
  by_cases hlow : i < 8
  · have h8 : ¬ 24 + i < 8 := by omega
    have h16 : ¬ 24 + i < 16 := by omega
    simp [getLsbD_packWord, rotWord, hlow, h8, h16]
  · have h8 : i - 8 < 8 ↔ i < 16 := by omega
    have h16 : i - 8 < 16 ↔ i < 24 := by omega
    have h24 : i - 8 < 24 := by omega
    rw [BitVec.getLsbD_of_ge _ (24 + i) (by omega), decide_eq_false hlow, Bool.or_false, Bool.not_false, Bool.true_and]
    simp only [getLsbD_packWord, rotWord, hlow, h8, h16, h24, if_true, if_false, Nat.sub_sub]

/-- Settles O43: substitution byte by byte (`extractLsb'_subWord`), and the rotation bit by bit (`packWord_rotWord`). -/
theorem wordCommands : Obligations.WordCommands := by
  refine ⟨rfl, rfl, fun s => ⟨_, exec_subWord s, rfl, extractLsb'_subWord s.opa⟩, fun s => ?_, fun c => rfl⟩
  rw [exec_rotWord, opaCol, packWord_rotWord, packWord_unpackWord]

end Sys2Proof.Machine
end

section
/-! PROOFS. The state commands (42_block_state.md): what each transform puts in each place of the state matrix, the column
transforms as products of polynomials, and the seven commands (R140 to R154). -/

namespace Sys2Proof.Machine

/-! ## The bytes of STATE as the places of the state matrix (R140) -/

theorem get_toState_blockOfReg (q : Quad Word) (r c : Fin 4) :
    Matrix.get (toState (blockOfReg q)) r c = regByte q r c := by
  rw [get_toState, regByte_eq]

theorem regByte_mapState (f : Matrix → Matrix) (s : State) (r c : Fin 4) :
    regByte (mapState f s).stateReg r c = Matrix.get (f (toState (blockOfReg s.stateReg))) r c := by
  rw [mapState, setStateBlock_stateReg, regByte_regOfBlock, get_fromState]

/-- Two transforms one after the other that undo each other on the matrix give STATE back. -/
theorem mapState_mapState_stateReg {f g : Matrix → Matrix} (h : ∀ m, g (f m) = m) (c : ResultCode) (s : State) :
    (mapState g (finish c (mapState f s))).stateReg = s.stateReg := by
  simp only [mapState, setStateBlock_stateReg, finish_stateReg, blockOfReg_regOfBlock, toState_fromState, h,
    fromState_toState, regOfBlock_blockOfReg]

/-! ## Substitution and rotation of rows, place by place (R141 to R148) -/

theorem regByte_subBytes (s : State) (r c : Fin 4) :
    regByte (mapState subBytes s).stateReg r c = sbox (regByte s.stateReg r c) := by
  rw [regByte_mapState, subBytes, Matrix.get_ofFn, get_toState_blockOfReg]

theorem regByte_invSubBytes (s : State) (r c : Fin 4) :
    regByte (mapState invSubBytes s).stateReg r c = invSbox (regByte s.stateReg r c) := by
  rw [regByte_mapState, invSubBytes, Matrix.get_ofFn, get_toState_blockOfReg]

theorem regByte_shiftRows (s : State) (r c : Fin 4) :
    regByte (mapState shiftRows s).stateReg r c = regByte s.stateReg r (c + r) := by
  rw [regByte_mapState, shiftRows, Matrix.get_ofFn, get_toState_blockOfReg]

theorem regByte_invShiftRows (s : State) (r c : Fin 4) :
    regByte (mapState invShiftRows s).stateReg r c = regByte s.stateReg r (c - r) := by
  rw [regByte_mapState, invShiftRows, Matrix.get_ofFn, get_toState_blockOfReg]

theorem sub_eq_mod_four (c r : Fin 4) : c - r = ⟨(c.val + 4 - r.val) % 4, Nat.mod_lt _ (Nat.succ_pos 3)⟩ := by
  decide +revert

/-- Settles O44: each command is its transform of STATE, read place by place. -/
theorem substitutionAndRowCommands : Obligations.SubstitutionAndRowCommands := fun s =>
  ⟨⟨_, rfl, rfl, regByte_subBytes s⟩, ⟨_, rfl, rfl, regByte_invSubBytes s⟩, ⟨_, rfl, rfl, regByte_shiftRows s⟩,
    ⟨_, rfl, rfl, fun r c => sub_eq_mod_four c r ▸ regByte_invShiftRows s r c⟩⟩

theorem invSubBytes_subBytes (m : Matrix) : invSubBytes (subBytes m) = m :=
  Matrix.ext_get fun r c => by simp only [invSubBytes, subBytes, Matrix.get_ofFn, invSbox_sbox]

theorem subBytes_invSubBytes (m : Matrix) : subBytes (invSubBytes m) = m :=
  Matrix.ext_get fun r c => by simp only [invSubBytes, subBytes, Matrix.get_ofFn, sbox_invSbox]

theorem invShiftRows_shiftRows (m : Matrix) : invShiftRows (shiftRows m) = m :=
  Matrix.ext_get fun r c => by simp only [invShiftRows, shiftRows, Matrix.get_ofFn, sub_add_cancel]

theorem shiftRows_invShiftRows (m : Matrix) : shiftRows (invShiftRows m) = m :=
  Matrix.ext_get fun r c => by simp only [invShiftRows, shiftRows, Matrix.get_ofFn, add_sub_cancel_right]

/-! ## Transforms of the columns (R149 to R152) -/

/-- Every column by f. -/
def mapColumns (f : Col → Col) (m : Matrix) : Matrix := Matrix.ofCols (Quad.ofFn fun c => f (Matrix.col m c))

theorem mixColumns_eq_mapColumns : mixColumns = mapColumns mixColumn := rfl

theorem invMixColumns_eq_mapColumns : invMixColumns = mapColumns invMixColumn := rfl

theorem get_mapColumns (f : Col → Col) (m : Matrix) (r c : Fin 4) :
    Matrix.get (mapColumns f m) r c = Quad.get (f (Matrix.col m c)) r := by
  rw [mapColumns, Matrix.ofCols, Matrix.get_ofFn, Quad.get_ofFn]

theorem col_mapColumns (f : Col → Col) (m : Matrix) (c : Fin 4) : Matrix.col (mapColumns f m) c = f (Matrix.col m c) :=
  Quad.ext_get fun r => by rw [Matrix.col, Quad.get_ofFn, get_mapColumns]

theorem mapColumns_mapColumns {f g : Col → Col} (h : ∀ a, g (f a) = a) (m : Matrix) :
    mapColumns g (mapColumns f m) = m :=
  Matrix.ext_get fun r c => by rw [get_mapColumns, col_mapColumns, h, Matrix.col, Quad.get_ofFn]

/-- Column c of STATE, top to bottom. -/
def regCol (q : Quad Word) (c : Fin 4) : Col := Quad.ofFn fun r => regByte q r c

theorem regByte_mapColumns (f : Col → Col) (s : State) (r c : Fin 4) :
    regByte (mapState (mapColumns f) s).stateReg r c = Quad.get (f (regCol s.stateReg c)) r := by
  simp only [regByte_mapState, get_mapColumns, Matrix.col, get_toState_blockOfReg, regCol]

theorem two_gfMul (a : Byte) : gfMul 2 a = xtime a := by rw [gfMul_comm, gfMul_two]

theorem three_gfMul (a : Byte) : gfMul 3 a = xtime a ^^^ a := by
  rw [show (3 : Byte) = 2 ^^^ 1 from rfl, xor_gfMul, two_gfMul, one_gfMul]

/-- Settles O45: both commands map the columns, and the factors 2 and 3 are a doubling and a doubling plus the byte. -/
theorem columnCommands : Obligations.ColumnCommands := by
  refine fun s => ⟨⟨_, rfl, rfl, fun c => ?_⟩, ⟨_, rfl, rfl, fun c => ?_⟩⟩
  · have hbyte (r : Fin 4) := regByte_mapColumns mixColumn s r c
    simp only [mixColumn, two_gfMul, three_gfMul] at hbyte
    exact ⟨hbyte 0, hbyte 1, hbyte 2, hbyte 3⟩
  · have hbyte (r : Fin 4) := regByte_mapColumns invMixColumn s r c
    exact ⟨hbyte 0, hbyte 1, hbyte 2, hbyte 3⟩

/-! ## The column transforms undo each other (R149, R151)

A column (a0, a1, a2, a3) is the polynomial a0 + a1·x + a2·x² + a3·x³ modulo x⁴ + 1; multiplication by a fixed one is the
circulant whose first column it is. So a product of circulants is an associative product of columns, and it is enough that
the two first columns multiply to the polynomial 1. -/

/-- The product of two columns as polynomials modulo x⁴ + 1; `mixColumn_eq_mulCol` and `invMixColumn_eq_mulCol` tie it to
the column transforms. -/
def mulCol (m a : Col) : Col :=
  ⟨gfMul m.q0 a.q0 ^^^ gfMul m.q3 a.q1 ^^^ gfMul m.q2 a.q2 ^^^ gfMul m.q1 a.q3,
   gfMul m.q1 a.q0 ^^^ gfMul m.q0 a.q1 ^^^ gfMul m.q3 a.q2 ^^^ gfMul m.q2 a.q3,
   gfMul m.q2 a.q0 ^^^ gfMul m.q1 a.q1 ^^^ gfMul m.q0 a.q2 ^^^ gfMul m.q3 a.q3,
   gfMul m.q3 a.q0 ^^^ gfMul m.q2 a.q1 ^^^ gfMul m.q1 a.q2 ^^^ gfMul m.q0 a.q3⟩

theorem mixColumn_eq_mulCol (a : Col) : mixColumn a = mulCol ⟨2, 1, 1, 3⟩ a := by
  simp only [mixColumn, mulCol, one_gfMul]

theorem invMixColumn_eq_mulCol (a : Col) : invMixColumn a = mulCol ⟨0x0E, 0x09, 0x0D, 0x0B⟩ a := rfl

theorem zero_gfMul (a : Byte) : gfMul 0 a = 0#8 := (gfMul_comm 0 a).trans (gfMul_zero a)

theorem one_mulCol (a : Col) : mulCol ⟨1, 0, 0, 0⟩ a = a := by
  simp only [mulCol, one_gfMul, zero_gfMul, BitVec.xor_zero, BitVec.zero_xor]

theorem mulCol_assoc (m n a : Col) : mulCol (mulCol m n) a = mulCol m (mulCol n a) := by
  simp only [mulCol, xor_gfMul, gfMul_xor, gfMul_assoc, Quad.mk.injEq]
  refine ⟨?_, ?_, ?_, ?_⟩ <;> ac_rfl

/-- Columns whose product is the polynomial 1 undo each other. -/
theorem mulCol_mulCol_of_eq_one {m n : Col} (h : mulCol m n = ⟨1, 0, 0, 0⟩) (a : Col) : mulCol m (mulCol n a) = a := by
  rw [← mulCol_assoc, h, one_mulCol]

theorem invMixColumn_mixColumn (a : Col) : invMixColumn (mixColumn a) = a := by
  rw [mixColumn_eq_mulCol, invMixColumn_eq_mulCol]
  exact mulCol_mulCol_of_eq_one (by decide) a

theorem mixColumn_invMixColumn (a : Col) : mixColumn (invMixColumn a) = a := by
  rw [mixColumn_eq_mulCol, invMixColumn_eq_mulCol]
  exact mulCol_mulCol_of_eq_one (by decide) a

theorem invMixColumns_mixColumns (m : Matrix) : invMixColumns (mixColumns m) = m := by
  rw [mixColumns_eq_mapColumns, invMixColumns_eq_mapColumns, mapColumns_mapColumns invMixColumn_mixColumn]

theorem mixColumns_invMixColumns (m : Matrix) : mixColumns (invMixColumns m) = m := by
  rw [mixColumns_eq_mapColumns, invMixColumns_eq_mapColumns, mapColumns_mapColumns mixColumn_invMixColumn]

/-! ## The round key (R153, R154, R218) -/

theorem regByte_addRoundKey (w : Vector Word 60) (round : Nat) (s : State) (j c : Fin 4) :
    regByte (mapState (fun m => addRoundKey m w round) s).stateReg j c =
      regByte s.stateReg j c ^^^ (w[4 * round + c.val]?.getD 0).extractLsb' (24 - 8 * j.val) 8 := by
  rw [regByte_mapState, addRoundKey, Matrix.get_ofFn, get_toState_blockOfReg, rkCol, get_unpackWord]

theorem addRoundKey_addRoundKey (m : Matrix) (w : Vector Word 60) (round : Nat) :
    addRoundKey (addRoundKey m w round) w round = m :=
  Matrix.ext_get fun j c => by
    simp only [addRoundKey, Matrix.get_ofFn, BitVec.xor_assoc, BitVec.xor_self, BitVec.xor_zero]

section Schedule

variable {s : State} {ks : KeySize} {round : Nat}

theorem withSchedule_of_some (hks : s.rkInfo = some ks) (rest : KeySize → Result) : withSchedule s rest = rest ks := by
  rw [withSchedule, hks]

theorem withSchedule_of_none (h : s.rkInfo = none) (rest : KeySize → Result) :
    withSchedule s rest = .next (finish .noKey s) := by
  rw [withSchedule, h, raise]

theorem exec_addRoundKey_of_le (hks : s.rkInfo = some ks) (h : round ≤ KeySize.nr ks) :
    exec (.addRoundKey round) s = .next (finish .ok (mapState (fun m => addRoundKey m s.rk round) s)) :=
  (withSchedule_of_some hks _).trans (if_neg (Nat.not_lt.2 h))

theorem exec_addRoundKey_of_lt (hks : s.rkInfo = some ks) (h : KeySize.nr ks < round) :
    exec (.addRoundKey round) s = .next (finish .badRound s) :=
  (withSchedule_of_some hks _).trans (if_pos h)

theorem exec_addRoundKey_of_none (h : s.rkInfo = none) (round : Nat) :
    exec (.addRoundKey round) s = .next (finish .noKey s) :=
  withSchedule_of_none h _

theorem rkNr_of_some (hks : s.rkInfo = some ks) : rkNr s = KeySize.nr ks := by
  rw [rkNr, hks, Option.map_some, Option.getD_some]

end Schedule

theorem decode_addRoundKey_word {round : Nat} (h : round ≤ 15) :
    decode (0x00000016 ||| BitVec.ofNat 32 round <<< 8) = .ok (.addRoundKey round) := by
  have hfield : (BitVec.ofNat 4 round).setWidth 32 = BitVec.ofNat 32 round := by bv_omega
  have hdecode := decode_encode_addRoundKey (round := round) (decide_eq_true h)
  rwa [encode, hfield] at hdecode

/-- Settles O46: the three ways the command completes, by RKINFO and ROUND. -/
theorem addRoundKeyResult : Obligations.AddRoundKeyResult := by
  refine ⟨fun round => decode_addRoundKey_word, fun s ks round hks _ => ?_, fun s round h _ =>
    exec_addRoundKey_of_none h round⟩
  rw [rkNr_of_some hks]
  exact ⟨fun h => ⟨_, exec_addRoundKey_of_le hks h, rfl, regByte_addRoundKey s.rk round s⟩, exec_addRoundKey_of_lt hks⟩

/-! ## Pairs of commands that give STATE back (R142 to R154) -/

theorem execAll_pair_stateReg {i j : Instr} {f g : Matrix → Matrix} {s : State}
    (hi : exec i s = .next (finish .ok (mapState f s)))
    (hj : exec j (finish .ok (mapState f s)) = .next (finish .ok (mapState g (finish .ok (mapState f s)))))
    (h : ∀ m, g (f m) = m) : ∃ t, execAll [i, j] s = .next t ∧ t.stateReg = s.stateReg := by
  refine ⟨finish .ok (mapState g (finish .ok (mapState f s))), ?_, mapState_mapState_stateReg h .ok s⟩
  simp only [execAll, hi, hj]

/-- Settles O47: the transforms undo each other on the matrix; the second ADD_ROUND_KEY finds the schedule of the first. -/
theorem inverseStateCommandsUndo : Obligations.InverseStateCommandsUndo := by
  refine ⟨fun p hp s => ?_, fun s ks round hks h =>
    execAll_pair_stateReg (exec_addRoundKey_of_le hks h) (exec_addRoundKey_of_le hks h)
      fun m => addRoundKey_addRoundKey m s.rk round⟩
  simp only [List.mem_cons, List.not_mem_nil, or_false] at hp
  rcases hp with rfl | rfl | rfl | rfl | rfl | rfl
  · exact execAll_pair_stateReg rfl rfl invSubBytes_subBytes
  · exact execAll_pair_stateReg rfl rfl subBytes_invSubBytes
  · exact execAll_pair_stateReg rfl rfl invShiftRows_shiftRows
  · exact execAll_pair_stateReg rfl rfl shiftRows_invShiftRows
  · exact execAll_pair_stateReg rfl rfl invMixColumns_mixColumns
  · exact execAll_pair_stateReg rfl rfl mixColumns_invMixColumns

end Sys2Proof.Machine
end

section
/-! PROOFS. The key schedule (43_key_schedule.md): the recurrence of R161 on the words of the expansion, the same recurrence
on the registers RK, and the command KEY_EXPAND (R160 to R162, R212). -/

namespace Sys2Proof.Machine

/-! ## The words of the expansion, newest first (R161) -/

/-- `temp` of R161 for the word w[i], from the word before it. -/
def scheduleTemp (nk i : Nat) (prev : Col) : Col :=
  if i % nk = 0 then xorCol (subWord (rotWord prev)) ⟨rconFrom1 (i / nk - 1), 0, 0, 0⟩
  else if nk > 6 ∧ i % nk = 4 then subWord prev
  else prev

/-- `nextWord` counts from the end of the key, `scheduleTemp` from the start of the schedule. -/
theorem nextWord_eq {nk : Nat} (hnk : 0 < nk) (j : Nat) (before : List Col) : nextWord nk j before =
    xorCol (before.getD (nk - 1) ⟨0, 0, 0, 0⟩) (scheduleTemp nk (nk + j) (before.getD 0 ⟨0, 0, 0, 0⟩)) := by
  rw [nextWord, scheduleTemp, Nat.add_mod_left, Nat.add_div_left j hnk, Nat.succ_sub_one]

theorem length_expandWords (nk n : Nat) : ∀ (j : Nat) (ws : List Col),
    (expandWords nk n j ws).length = ws.length + n := by
  induction n with
  | zero => exact fun _ _ => rfl
  | succ n ih => intro j ws; rw [expandWords, ih, List.length_cons, Nat.add_right_comm, Nat.add_assoc]

theorem suffix_expandWords (nk n : Nat) : ∀ (j : Nat) (ws : List Col), ws <:+ expandWords nk n j ws := by
  induction n with
  | zero => exact fun _ ws => List.suffix_refl ws
  | succ n ih => exact fun j ws => (List.suffix_cons _ ws).trans (ih (j + 1) _)

/-- Every word of ws but the oldest nk is the `nextWord` of the words before it, which follow it in the list. -/
def FollowsRecurrence (nk : Nat) (ws : List Col) : Prop :=
  ∀ w before, (w :: before) <:+ ws → nk ≤ before.length → w = nextWord nk (before.length - nk) before

theorem FollowsRecurrence.of_length_le {nk : Nat} {ws : List Col} (h : ws.length ≤ nk) : FollowsRecurrence nk ws := by
  intro w before hsuffix hlen
  have := hsuffix.length_le
  rw [List.length_cons] at this
  omega

theorem FollowsRecurrence.nextWord_cons {nk j : Nat} {ws : List Col} (h : FollowsRecurrence nk ws)
    (hlen : ws.length = nk + j) : FollowsRecurrence nk (nextWord nk j ws :: ws) := by
  intro w before hsuffix hnk
  rcases List.suffix_cons_iff.1 hsuffix with heq | hsuffix
  · cases heq
    rw [hlen, Nat.add_sub_cancel_left]
  · exact h w before hsuffix hnk

theorem FollowsRecurrence.expandWords {nk : Nat} (n : Nat) : ∀ {j : Nat} {ws : List Col}, FollowsRecurrence nk ws →
    ws.length = nk + j → FollowsRecurrence nk (expandWords nk n j ws) := by
  induction n with
  | zero => exact fun h _ => h
  | succ n ih => exact fun h hlen => ih (h.nextWord_cons hlen) (congrArg (· + 1) hlen)

/-! ## The same words by their index in the schedule -/

/-- The k-th word before position i, where i words stand before it. -/
theorem getD_of_suffix {before ws : List Col} (h : before <:+ ws) {k : Nat} (hk : k < before.length) (d : Col) :
    before.getD k d = ws.reverse.getD (before.length - 1 - k) d := by
  obtain ⟨newer, rfl⟩ := h
  rw [List.reverse_append, List.getD_append _ _ _ _ (by rw [List.length_reverse]; omega), List.getD_reverse _ (by omega)]
  congr 1
  omega

theorem exists_cons_suffix {ws : List Col} {i : Nat} (hi : i < ws.length) :
    ∃ w before, (w :: before) <:+ ws ∧ before.length = i := by
  obtain ⟨w, before, heq⟩ := List.exists_cons_of_length_eq_add_one
    (show (ws.drop (ws.length - 1 - i)).length = i + 1 by rw [List.length_drop]; omega)
  have hlen := congrArg List.length heq
  rw [List.length_drop, List.length_cons] at hlen
  exact ⟨w, before, heq ▸ List.drop_suffix _ ws, by omega⟩

theorem FollowsRecurrence.getD_reverse {nk i : Nat} {ws : List Col} (h : FollowsRecurrence nk ws) (hnk : 0 < nk)
    (hi : nk ≤ i) (hlt : i < ws.length) : ws.reverse.getD i ⟨0, 0, 0, 0⟩ =
      xorCol (ws.reverse.getD (i - nk) ⟨0, 0, 0, 0⟩) (scheduleTemp nk i (ws.reverse.getD (i - 1) ⟨0, 0, 0, 0⟩)) := by
  obtain ⟨w, before, hsuffix, rfl⟩ := exists_cons_suffix hlt
  have hw := getD_of_suffix hsuffix (Nat.succ_pos before.length) ⟨0, 0, 0, 0⟩
  have hbefore := (List.suffix_cons w before).trans hsuffix
  have hprev := getD_of_suffix hbefore (show 0 < before.length by omega) ⟨0, 0, 0, 0⟩
  have hback := getD_of_suffix hbefore (show nk - 1 < before.length by omega) ⟨0, 0, 0, 0⟩
  have hindex : before.length - 1 - (nk - 1) = before.length - nk := by omega
  calc ws.reverse.getD before.length ⟨0, 0, 0, 0⟩
      = w := hw.symm
    _ = nextWord nk (before.length - nk) before := h w before hsuffix hi
    _ = _ := by rw [nextWord_eq hnk, Nat.add_sub_cancel' hi, hprev, hback, hindex, Nat.sub_zero]

section Expansion

variable {ks : KeySize} {key : List Col} {i : Nat}

theorem nk_le_scheduleLength (ks : KeySize) : KeySize.nk ks ≤ 4 * (KeySize.nr ks + 1) := by cases ks <;> decide

theorem nk_pos (ks : KeySize) : 0 < KeySize.nk ks := by cases ks <;> decide

theorem scheduleLength_le (ks : KeySize) : 4 * (KeySize.nr ks + 1) ≤ 60 := by cases ks <;> decide

/-- The schedule begins with the key. -/
theorem keyExpansion_getD_of_lt (h : i < key.length) (d : Col) : (keyExpansion ks key).getD i d = key.getD i d := by
  have hbegins : key <+: keyExpansion ks key := by
    rw [keyExpansion, ← List.reverse_suffix, List.reverse_reverse]
    exact suffix_expandWords _ _ _ _
  obtain ⟨later, heq⟩ := hbegins
  rw [← heq, List.getD_append _ _ _ _ h]

/-- The recurrence of R161. -/
theorem keyExpansion_getD_of_le (hkey : key.length = KeySize.nk ks) (hi : KeySize.nk ks ≤ i)
    (hlt : i < 4 * (KeySize.nr ks + 1)) : (keyExpansion ks key).getD i ⟨0, 0, 0, 0⟩ =
      xorCol ((keyExpansion ks key).getD (i - KeySize.nk ks) ⟨0, 0, 0, 0⟩)
        (scheduleTemp (KeySize.nk ks) i ((keyExpansion ks key).getD (i - 1) ⟨0, 0, 0, 0⟩)) := by
  have hlen : key.reverse.length = KeySize.nk ks + 0 := by rw [List.length_reverse, hkey, Nat.add_zero]
  refine ((FollowsRecurrence.of_length_le hlen.le).expandWords _ hlen).getD_reverse (nk_pos ks) hi ?_
  rw [length_expandWords, hlen]
  omega

end Expansion

/-! ## The round-key memory (R44, R161, R162) -/

theorem packWord_xorCol (a b : Col) : packWord (xorCol a b) = packWord a ^^^ packWord b := by
  apply BitVec.eq_of_getLsbD_eq
  intro i _
  simp only [BitVec.getLsbD_xor, getLsbD_packWord, xorCol, Quad.zip]
  split_ifs <;> rfl

/-- The table of round constants of R160, each in the top byte of its word. -/
theorem packWord_rconFrom1 : ∀ k < 10, packWord ⟨rconFrom1 k, 0, 0, 0⟩ =
    ([0x01, 0x02, 0x04, 0x08, 0x10, 0x20, 0x40, 0x80, 0x1B, 0x36] : List Word).getD k 0 <<< 24 := by decide

/-- SubWord on a register word (R63, R134). -/
def subWordOf (v : Word) : Word := packWord (subWord (unpackWord v))

/-- The right side of R161 on register words, with the round constants listed. -/
def scheduleTempOf (nk i : Nat) (prev : Word) : Word :=
  if i % nk = 0 then subWordOf (prev <<< 8 ||| prev >>> 24) ^^^
    (([0x01, 0x02, 0x04, 0x08, 0x10, 0x20, 0x40, 0x80, 0x1B, 0x36] : List Word).getD (i / nk - 1) 0) <<< 24
  else if nk > 6 ∧ i % nk = 4 then subWordOf prev
  else prev

theorem packWord_subWord (c : Col) : packWord (subWord c) = subWordOf (packWord c) := by
  rw [subWordOf, unpackWord_packWord]

theorem packWord_scheduleTemp {nk i : Nat} (h : i / nk - 1 < 10) (c : Col) :
    packWord (scheduleTemp nk i c) = scheduleTempOf nk i (packWord c) := by
  simp only [scheduleTemp, scheduleTempOf, apply_ite packWord, packWord_xorCol, packWord_subWord, packWord_rotWord,
    packWord_rconFrom1 _ h]

/-- The listed round constants are enough for every schedule (R160). -/
theorem rconIndex_lt {ks : KeySize} {i : Nat} (h : i < 4 * (KeySize.nr ks + 1)) : i / KeySize.nk ks - 1 < 10 := by
  cases ks <;> simp only [KeySize.nk, KeySize.nr] at h ⊢ <;> omega

section Memory

variable {ks : KeySize} {w : List Col} {i : Nat}

theorem scheduleMemory_getElem?_of_lt (h : i < 4 * (KeySize.nr ks + 1)) :
    (scheduleMemory ks w)[i]?.getD 0 = packWord (w.getD i ⟨0, 0, 0, 0⟩) := by
  have hi := h.trans_le (scheduleLength_le ks)
  simp [scheduleMemory, hi, h]

theorem scheduleMemory_getElem?_of_le (h : 4 * (KeySize.nr ks + 1) ≤ i) : (scheduleMemory ks w)[i]?.getD 0 = 0 := by
  by_cases hi : i < 60 <;> simp [scheduleMemory, hi, Nat.not_lt.2 h]

end Memory

theorem packWord_keyCols_getD {s : State} {ks : KeySize} {i : Nat} (h : i < KeySize.nk ks) :
    packWord ((keyCols s (KeySize.nk ks)).getD i ⟨0, 0, 0, 0⟩) = s.key[i]?.getD 0 := by
  have hi : i < 8 := h.trans_le (by cases ks <;> decide)
  simp [keyCols, List.getD_eq_getElem?_getD, h, hi]

section Command

variable {s : State} {ks : KeySize} {i : Nat}

/-- The round-key memory after KEY_EXPAND with a key of size ks. -/
def expandedKey (s : State) (ks : KeySize) : Vector Word 60 :=
  scheduleMemory ks (keyExpansion ks (keyCols s (KeySize.nk ks)))

theorem expandedKey_of_lt_nk (h : i < KeySize.nk ks) : (expandedKey s ks)[i]?.getD 0 = s.key[i]?.getD 0 := by
  rw [expandedKey, scheduleMemory_getElem?_of_lt (h.trans_le (nk_le_scheduleLength ks)),
    keyExpansion_getD_of_lt (by rwa [length_keyCols_nk]), packWord_keyCols_getD h]

theorem expandedKey_recurrence (hi : KeySize.nk ks ≤ i) (hlt : i < 4 * (KeySize.nr ks + 1)) :
    (expandedKey s ks)[i]?.getD 0 = (expandedKey s ks)[i - KeySize.nk ks]?.getD 0 ^^^
      scheduleTempOf (KeySize.nk ks) i ((expandedKey s ks)[i - 1]?.getD 0) := by
  simp only [expandedKey]
  rw [scheduleMemory_getElem?_of_lt hlt, scheduleMemory_getElem?_of_lt (Nat.lt_of_le_of_lt (Nat.sub_le _ _) hlt),
    scheduleMemory_getElem?_of_lt (Nat.lt_of_le_of_lt (Nat.sub_le _ _) hlt),
    keyExpansion_getD_of_le (length_keyCols_nk s ks) hi hlt, packWord_xorCol, packWord_scheduleTemp (rconIndex_lt hlt)]

theorem exec_keyExpand_of_some (h : keySizeOf s.keylen = some ks) :
    exec .keyExpand s = .next (finish .ok (setSchedule (expandedKey s ks) ks s)) := by
  rw [exec, execKeyExpand, h]
  rfl

theorem exec_keyExpand_of_none (h : keySizeOf s.keylen = none) : exec .keyExpand s = .next (finish .invalidKey s) := by
  rw [exec, execKeyExpand, h]
  rfl

end Command

/-! ## The lengths of keys (R10, R35) -/

/-- The three lengths KEY_EXPAND takes, with the NK and NR of each. -/
theorem keySizeOf_listed : ∀ p ∈ [((0x10 : Word), 4, 10), (0x18, 6, 12), (0x20, 8, 14)],
    ∃ ks, keySizeOf p.1 = some ks ∧ p.2 = (KeySize.nk ks, KeySize.nr ks) := by
  intro p hp
  simp only [List.mem_cons, List.not_mem_nil, or_false] at hp
  rcases hp with rfl | rfl | rfl
  · exact ⟨.aes128, rfl, rfl⟩
  · exact ⟨.aes192, rfl, rfl⟩
  · exact ⟨.aes256, rfl, rfl⟩

theorem keySizeOf_eq_none {v : Word} (h16 : v ≠ 0x10) (h24 : v ≠ 0x18) (h32 : v ≠ 0x20) : keySizeOf v = none := by
  have h16 : v.toNat ≠ 16 := by bv_omega
  have h24 : v.toNat ≠ 24 := by bv_omega
  have h32 : v.toNat ≠ 32 := by bv_omega
  rw [keySizeOf, if_neg h16, if_neg h24, if_neg h32]

/-- Settles O48: the three parts of `expandedKey` for a listed length, and the error completion for any other. -/
theorem keyExpandResult : Obligations.KeyExpandResult := by
  refine ⟨rfl, fun s p hp hlen => ?_, fun s h16 h24 h32 => exec_keyExpand_of_none (keySizeOf_eq_none h16 h24 h32)⟩
  obtain ⟨ks, hks, hp2⟩ := keySizeOf_listed p hp
  rw [hp2]
  exact ⟨_, exec_keyExpand_of_some (hlen ▸ hks), rfl, rfl, rfl, rfl, fun _ => expandedKey_of_lt_nk,
    fun _ => expandedKey_recurrence, fun _ hi _ => scheduleMemory_getElem?_of_le hi⟩

end Sys2Proof.Machine
end

section
/-! PROOFS. The block cipher (44_block_cipher.md): the rounds of Cipher and InvCipher undo each other, the equivalent form
of InvCipher, and the commands ENCRYPT_BLOCK and DECRYPT_BLOCK (R170 to R174). -/

namespace Sys2Proof.Machine

/-! ## Cipher and InvCipher undo each other (R170, R171)

InvCipher takes the round keys in the reverse order. The two lists of rounds undo each other once the SubBytes and ShiftRows
that stand between them, those of the final round of the cipher that runs first, are taken in (induction on the rounds). -/

/-- The rounds of a list to which one is added at the end (R171). -/
theorem invCipherRounds_concat (w : Vector Word 60) (round : Nat) (rounds : List Nat) (m : Matrix) :
    invCipherRounds w (rounds ++ [round]) m =
      invMixColumns (addRoundKey (invSubBytes (invShiftRows (invCipherRounds w rounds m))) w round) := by
  induction rounds generalizing m with
  | nil => rfl
  | cons _ _ ih => exact ih _

theorem invCipherRounds_cipherRounds (w : Vector Word 60) (rounds : List Nat) (m : Matrix) :
    invCipherRounds w rounds.reverse (shiftRows (subBytes (cipherRounds w rounds m))) = shiftRows (subBytes m) := by
  induction rounds generalizing m with
  | nil => rfl
  | cons round rounds ih =>
    rw [List.reverse_cons, invCipherRounds_concat, cipherRounds, ih, invShiftRows_shiftRows, invSubBytes_subBytes,
      addRoundKey_addRoundKey, invMixColumns_mixColumns]

theorem cipherRounds_invCipherRounds (w : Vector Word 60) (rounds : List Nat) (m : Matrix) :
    cipherRounds w rounds (invSubBytes (invShiftRows (invCipherRounds w rounds.reverse m))) =
      invSubBytes (invShiftRows m) := by
  induction rounds with
  | nil => rfl
  | cons round rounds ih =>
    rw [List.reverse_cons, invCipherRounds_concat, cipherRounds, subBytes_invSubBytes, shiftRows_invShiftRows,
      mixColumns_invMixColumns, addRoundKey_addRoundKey, ih]

theorem invCipher_cipher (b : Block) (w : Vector Word 60) (nr : Nat) :
    invCipher (cipher b w nr) w nr = b := by
  simp only [invCipher, cipher, toState_fromState, addRoundKey_addRoundKey, invCipherRounds_cipherRounds,
    invShiftRows_shiftRows, invSubBytes_subBytes, fromState_toState]

theorem cipher_invCipher (b : Block) (w : Vector Word 60) (nr : Nat) :
    cipher (invCipher b w nr) w nr = b := by
  simp only [invCipher, cipher, toState_fromState, addRoundKey_addRoundKey, cipherRounds_invCipherRounds,
    subBytes_invSubBytes, shiftRows_invShiftRows, fromState_toState]

/-! ## The commands (R173, R174) -/

section Command

variable {s : State} {ks : KeySize}

theorem exec_encryptBlock_of_some (hks : s.rkInfo = some ks) : exec .encryptBlock s =
    .next (finish .ok (setBlkOut (cipher (blockOfReg s.blkIn) s.rk (KeySize.nr ks)) s)) :=
  withSchedule_of_some hks _

theorem exec_decryptBlock_of_some (hks : s.rkInfo = some ks) : exec .decryptBlock s =
    .next (finish .ok (setBlkOut (invCipher (blockOfReg s.blkIn) s.rk (KeySize.nr ks)) s)) :=
  withSchedule_of_some hks _

theorem exec_encryptBlock_of_none (h : s.rkInfo = none) : exec .encryptBlock s = .next (finish .noKey s) :=
  withSchedule_of_none h _

theorem exec_decryptBlock_of_none (h : s.rkInfo = none) : exec .decryptBlock s = .next (finish .noKey s) :=
  withSchedule_of_none h _

end Command

/-- Settles O49: the two ways each command completes, by RKINFO. -/
theorem blockCommandsResult : Obligations.BlockCommandsResult := by
  refine ⟨rfl, rfl, fun s ks hks => ?_, fun s h => ⟨exec_encryptBlock_of_none h, exec_decryptBlock_of_none h⟩⟩
  rw [rkNr_of_some hks]
  exact ⟨exec_encryptBlock_of_some hks, exec_decryptBlock_of_some hks⟩

/-- Settles O51: the second command finds the schedule of the first, and Cipher and InvCipher undo each other
(`invCipher_cipher`, `cipher_invCipher`). -/
theorem decryptUndoesEncrypt : Obligations.DecryptUndoesEncrypt := by
  refine fun s ks hks => ⟨⟨_, _, exec_encryptBlock_of_some hks, exec_decryptBlock_of_some hks, ?_⟩,
    ⟨_, _, exec_decryptBlock_of_some hks, exec_encryptBlock_of_some hks, ?_⟩⟩
  · simp [invCipher_cipher]
  · simp [cipher_invCipher]

/-! ## The equivalent form of InvCipher (R172)

InvMixColumns is additive, so it may be applied before the round key is added when it is applied to the round key too; and
substitution of each byte may stand before or after the rotation of rows. -/

theorem mulCol_xorCol (m a b : Col) : mulCol m (xorCol a b) = xorCol (mulCol m a) (mulCol m b) := by
  simp only [mulCol, xorCol, Quad.zip, gfMul_xor, Quad.mk.injEq]
  refine ⟨?_, ?_, ?_, ?_⟩ <;> ac_rfl

theorem invMixColumn_xorCol (a b : Col) : invMixColumn (xorCol a b) = xorCol (invMixColumn a) (invMixColumn b) := by
  simp only [invMixColumn_eq_mulCol, mulCol_xorCol]

theorem Matrix.ext_col {m n : Matrix} (h : ∀ c, Matrix.col m c = Matrix.col n c) : m = n :=
  Matrix.ext_get fun r c => by
    have hget := congrArg (Quad.get · r) (h c)
    simpa only [Matrix.col, Quad.get_ofFn] using hget

theorem col_addRoundKey (m : Matrix) (w : Vector Word 60) (round : Nat) (c : Fin 4) :
    Matrix.col (addRoundKey m w round) c = xorCol (Matrix.col m c) (rkCol w (4 * round + c.val)) :=
  Quad.ext_get fun r => by simp only [Matrix.col, addRoundKey, xorCol, Quad.get_ofFn, Quad.get_zip, Matrix.get_ofFn]

theorem addRoundKey_invMixColumns {w dw : Vector Word 60} {round : Nat}
    (h : ∀ c : Fin 4, rkCol dw (4 * round + c.val) = invMixColumn (rkCol w (4 * round + c.val))) (m : Matrix) :
    addRoundKey (invMixColumns m) dw round = invMixColumns (addRoundKey m w round) :=
  Matrix.ext_col fun c => by
    simp only [invMixColumns_eq_mapColumns, col_mapColumns, col_addRoundKey, invMixColumn_xorCol, h]

theorem invShiftRows_invSubBytes (m : Matrix) : invShiftRows (invSubBytes m) = invSubBytes (invShiftRows m) :=
  Matrix.ext_get fun r c => by simp only [invShiftRows, invSubBytes, Matrix.get_ofFn]

section EquivalentSchedule

variable {w : Vector Word 60} {nr round : Nat}

theorem rkCol_equivalentSchedule_of_eq {i : Nat} (h : i < 4 ∨ 4 * nr ≤ i) :
    rkCol (equivalentSchedule w nr) i = rkCol w i := by
  by_cases hi : i < 60 <;> simp [rkCol, equivalentSchedule, hi, h]

theorem rkCol_equivalentSchedule_of_inner {i : Nat} (hi : i < 60) (h : ¬ (i < 4 ∨ 4 * nr ≤ i)) :
    rkCol (equivalentSchedule w nr) i = invMixColumn (rkCol w i) := by
  simp [rkCol, equivalentSchedule, hi, h]

theorem addRoundKey_equivalentSchedule_of_eq (h : round = 0 ∨ nr ≤ round) (m : Matrix) :
    addRoundKey m (equivalentSchedule w nr) round = addRoundKey m w round := by
  have hkey (c : Fin 4) : rkCol (equivalentSchedule w nr) (4 * round + c.val) = rkCol w (4 * round + c.val) :=
    rkCol_equivalentSchedule_of_eq (by omega)
  simp only [addRoundKey, hkey]

theorem addRoundKey_equivalentSchedule_of_inner (hnr : nr ≤ 15) (hpos : 0 < round) (hlt : round < nr) (m : Matrix) :
    addRoundKey (invMixColumns m) (equivalentSchedule w nr) round = invMixColumns (addRoundKey m w round) :=
  addRoundKey_invMixColumns (fun _ => rkCol_equivalentSchedule_of_inner (by omega) (by omega)) m

theorem equivalentRounds_eq (hnr : nr ≤ 15) {rounds : List Nat} (h : ∀ round ∈ rounds, 0 < round ∧ round < nr)
    (m : Matrix) : equivalentRounds (equivalentSchedule w nr) rounds m = invCipherRounds w rounds m := by
  induction rounds generalizing m with
  | nil => rfl
  | cons round rounds ih =>
    obtain ⟨⟨hpos, hlt⟩, hrounds⟩ := List.forall_mem_cons.1 h
    rw [equivalentRounds, invCipherRounds, ih hrounds, addRoundKey_equivalentSchedule_of_inner hnr hpos hlt,
      invShiftRows_invSubBytes]

/-- The 60 words of RK hold the round keys 0 .. 14 (R44). -/
theorem equivalentInvCipher_eq (hnr : nr ≤ 15) (b : Block) : equivalentInvCipher b w nr = invCipher b w nr := by
  have hrounds : ∀ round ∈ (List.range' 1 (nr - 1)).reverse, 0 < round ∧ round < nr := by
    intro round hmem
    rw [List.mem_reverse, List.mem_range'_1] at hmem
    omega
  rw [equivalentInvCipher, invCipher, addRoundKey_equivalentSchedule_of_eq (.inr le_rfl),
    equivalentRounds_eq hnr hrounds, addRoundKey_equivalentSchedule_of_eq (.inl rfl), invShiftRows_invSubBytes]

end EquivalentSchedule

/-- Settles O52: rounds 1 .. Nr-1 with InvMixColumns on their keys (`equivalentRounds_eq`), the first and the last round key
unchanged. -/
theorem equivalentInverseAgrees : Obligations.EquivalentInverseAgrees := fun b _ ks =>
  equivalentInvCipher_eq (by cases ks <;> decide) b

end Sys2Proof.Machine
end

section
/-! PROOFS. The chained mode (45_chained_mode.md): the blocks of a byte sequence by their number, the chain of CBC in both
directions and its round trip, and the commands CBC_ENCRYPT and CBC_DECRYPT (R180 to R185). -/

namespace Sys2Proof.Machine

/-! ## The blocks of a byte sequence by their number (R14) -/

theorem blockOfBytes_drop_blocksBytes (bs : List Block) {j : Nat} (h : j < bs.length) :
    blockOfBytes ((blocksBytes bs).drop (16 * j)) = bs[j] := by
  induction bs generalizing j with
  | nil => cases h
  | cons b bs ih =>
    cases j with
    | zero => rfl
    | succ j =>
      rw [Nat.mul_succ, Nat.add_comm, ← List.drop_drop, blocksBytes, drop_blockBytes]
      exact ih (Nat.lt_of_succ_lt_succ h)

theorem getElem_takeBlocks {n j : Nat} (l : List Byte) (h : j < (takeBlocks n l).length) :
    (takeBlocks n l)[j] = blockOfBytes (l.drop (16 * j)) := by
  induction n generalizing j l with
  | zero => cases h
  | succ n ih =>
    cases j with
    | zero => rfl
    | succ j =>
      exact (ih _ (Nat.lt_of_succ_lt_succ h)).trans (by rw [List.drop_drop, Nat.mul_succ, Nat.add_comm])

theorem getElem_fullBlocks {j : Nat} (l : List Byte) (h : j < (fullBlocks l).length) :
    (fullBlocks l)[j] = blockOfBytes (l.drop (16 * j)) :=
  getElem_takeBlocks l h

theorem fullBlocks_eq_cons {l : List Byte} (h : 16 ≤ l.length) :
    fullBlocks l = blockOfBytes l :: fullBlocks (l.drop 16) := by
  have hcount : l.length / 16 = (l.drop 16).length / 16 + 1 := by rw [List.length_drop]; omega
  rw [fullBlocks, hcount, takeBlocks, fullBlocks]

theorem blocksBytes_fullBlocks {l : List Byte} (h : l.length % 16 = 0) : blocksBytes (fullBlocks l) = l := by
  have htail : tailBytes l = [] := List.eq_nil_of_length_eq_zero (by rw [length_tailBytes, h])
  simpa [htail] using fullBlocks_append_tailBytes l

/-! ## The padding (R180) -/

theorem length_pad_mod (m : List Byte) : (pad m).length % 16 = 0 := by
  rw [length_pad]
  omega

theorem padLength_bounds (n : Nat) : 1 ≤ padLength n ∧ padLength n ≤ 16 := by
  rw [padLength]
  omega

/-- A pad length fits in a byte. -/
theorem toNat_padByte (n : Nat) : (BitVec.ofNat 8 (padLength n)).toNat = padLength n := by
  have hle := (padLength_bounds n).2
  rw [BitVec.toNat_ofNat]
  omega

/-- Every byte after the message is the pad length. -/
theorem getElem?_pad {m : List Byte} {i : Nat} (hm : m.length ≤ i) (hi : i < (pad m).length) :
    (pad m)[i]? = some (BitVec.ofNat 8 (padLength m.length)) := by
  rw [length_pad] at hi
  rw [pad, List.getElem?_append_right hm, List.getElem?_replicate_of_lt (by rw [padLength]; omega)]

/-! ## The chain (R181, R182, R185) -/

section Chain

variable (w : Vector Word 60) (nr : Nat)

/-- The chain value of block j is the one that stands before it in the result, the first given. -/
theorem getElem_cbcEncryptBlocks (chain : Block) (ps : List Block) {j : Nat} (h : j < ps.length) :
    (cbcEncryptBlocks w nr chain ps)[j]'(by simpa using h) =
      cipher (xorBlock ps[j] ((chain :: cbcEncryptBlocks w nr chain ps)[j]'(by simp; omega))) w nr := by
  induction ps generalizing chain j with
  | nil => cases h
  | cons p ps ih =>
    cases j with
    | zero => rfl
    | succ j => exact ih _ (Nat.lt_of_succ_lt_succ h)

/-- The chain value of block j is the one that stands before it in the input, the first given. -/
theorem getElem_cbcDecryptBlocks (chain : Block) (cs : List Block) {j : Nat} (h : j < cs.length) :
    (cbcDecryptBlocks w nr chain cs)[j]'(by simpa using h) =
      xorBlock (invCipher cs[j] w nr) ((chain :: cs)[j]'(by simp; omega)) := by
  induction cs generalizing chain j with
  | nil => cases h
  | cons c cs ih =>
    cases j with
    | zero => rfl
    | succ j => exact ih _ (Nat.lt_of_succ_lt_succ h)

theorem cbcDecryptBlocks_cbcEncryptBlocks (chain : Block) (ps : List Block) :
    cbcDecryptBlocks w nr chain (cbcEncryptBlocks w nr chain ps) = ps := by
  induction ps generalizing chain with
  | nil => rfl
  | cons p ps ih => rw [cbcEncryptBlocks, cbcDecryptBlocks, invCipher_cipher, xorBlock_xorBlock, ih]

theorem cbcEncrypt_eq_blocksBytes (iv : Block) (m : List Byte) :
    cbcEncrypt iv m w nr = blocksBytes (iv :: cbcEncryptBlocks w nr iv (fullBlocks (pad m))) := rfl

theorem blockOfBytes_cbcEncrypt (iv : Block) (m : List Byte) : blockOfBytes (cbcEncrypt iv m w nr) = iv :=
  blockOfBytes_blockBytes _ _

theorem blockOfBytes_drop_cbcEncrypt (iv : Block) (m : List Byte) {j : Nat} (h : j < m.length / 16 + 1) :
    blockOfBytes ((cbcEncrypt iv m w nr).drop (16 * (j + 1))) =
      cipher (xorBlock (blockOfBytes ((pad m).drop (16 * j))) (blockOfBytes ((cbcEncrypt iv m w nr).drop (16 * j))))
        w nr := by
  have hj : j < (fullBlocks (pad m)).length := by rw [length_fullBlocks, length_pad]; omega
  rw [cbcEncrypt_eq_blocksBytes, blockOfBytes_drop_blocksBytes _ (by simpa using hj),
    blockOfBytes_drop_blocksBytes _ (by rw [List.length_cons, length_cbcEncryptBlocks]; omega),
    ← getElem_fullBlocks _ hj]
  exact getElem_cbcEncryptBlocks w nr iv _ hj

theorem blockOfBytes_drop_cbcDecryptPadded {d : List Byte} {j : Nat} (h : j < d.length / 16 - 1) :
    blockOfBytes ((cbcDecryptPadded d w nr).drop (16 * j)) =
      xorBlock (invCipher (blockOfBytes (d.drop (16 * (j + 1)))) w nr) (blockOfBytes (d.drop (16 * j))) := by
  have hcons : fullBlocks d = blockOfBytes d :: fullBlocks (d.drop 16) := fullBlocks_eq_cons (by omega)
  have hj : j < (fullBlocks (d.drop 16)).length := by rw [length_fullBlocks, List.length_drop]; omega
  rw [cbcDecryptPadded, blockOfBytes_drop_blocksBytes _ (by simpa using hj), getElem_cbcDecryptBlocks w nr _ _ hj,
    ← getElem_fullBlocks d (j := j) (by rw [length_fullBlocks]; omega),
    ← getElem_fullBlocks d (j := j + 1) (by rw [length_fullBlocks]; omega)]
  simp only [hcons, List.getElem_cons_succ]

theorem cbcDecryptPadded_cbcEncrypt (iv : Block) (m : List Byte) :
    cbcDecryptPadded (cbcEncrypt iv m w nr) w nr = pad m := by
  have hblocks (bs : List Block) : fullBlocks (blocksBytes bs) = bs := by
    simpa using fullBlocks_blocksBytes bs [] (by decide)
  rw [cbcDecryptPadded, blockOfBytes_cbcEncrypt, cbcEncrypt, drop_blockBytes, hblocks,
    cbcDecryptBlocks_cbcEncryptBlocks, blocksBytes_fullBlocks (length_pad_mod m)]

end Chain

/-! ## The commands (R183, R184) -/

section Command

variable {s : State} {ks : KeySize}

theorem exec_cbcEncrypt_of_fits {m : List Byte} (hks : s.rkInfo = some ks) (hlen : s.inLen.toNat = m.length)
    (hfits : m.length + 32 - m.length % 16 ≤ s.bufBytes) (hm : bytesAt s inBase m) :
    exec .cbcEncrypt s = .next (finish .ok (writeOut (cbcEncrypt (blockOfReg s.iv) m s.rk (KeySize.nr ks))
      (cbcEncrypt (blockOfReg s.iv) m s.rk (KeySize.nr ks)).length s)) := by
  rw [exec, execCbcEncrypt, withSchedule_of_some hks, hlen]
  dsimp only
  rw [if_neg (by omega), withInput_of_bytesAt s m _ hm, complete]

/-- The last byte k of the padded plaintext p decides between the two completions (R182, R215). -/
theorem exec_cbcDecrypt_of_accepted {d p : List Byte} {k : Byte} (hks : s.rkInfo = some ks)
    (hlen : s.inLen.toNat = d.length) (hfits : d.length ≤ s.bufBytes) (hmod : d.length % 16 = 0) (hlt : 16 < d.length)
    (hd : bytesAt s inBase d) (hp : cbcDecryptPadded d s.rk (KeySize.nr ks) = p) (hk : p[d.length - 17]? = some k) :
    exec .cbcDecrypt s = if 1 ≤ k.toNat ∧ k.toNat ≤ 16 then
      .next (finish .ok (writeOut p (d.length - 16 - k.toNat) s)) else .next (finish .paddingError s) := by
  rw [exec, execCbcDecrypt, withSchedule_of_some hks, hlen]
  dsimp only
  rw [if_neg (by omega), if_neg (by omega), withInput_of_bytesAt s d _ hd, hp, List.getD_eq_getElem?_getD, hk,
    Option.getD_some]
  by_cases hpad : 1 ≤ k.toNat ∧ k.toNat ≤ 16
  · rw [if_pos hpad, if_neg (by omega), complete]
  · rw [if_neg hpad, if_pos (by omega), raise]

/-- The length found is that of the message: the input has the IV and the pad more. -/
theorem exec_cbcDecrypt_cbcEncrypt {iv : Block} {m : List Byte} (hks : s.rkInfo = some ks)
    (hlen : s.inLen.toNat = (cbcEncrypt iv m s.rk (KeySize.nr ks)).length)
    (hfits : (cbcEncrypt iv m s.rk (KeySize.nr ks)).length ≤ s.bufBytes)
    (hin : bytesAt s inBase (cbcEncrypt iv m s.rk (KeySize.nr ks))) :
    exec .cbcDecrypt s = .next (finish .ok (writeOut (pad m) m.length s)) := by
  have hpadded := cbcDecryptPadded_cbcEncrypt s.rk (KeySize.nr ks) iv m
  have houtLen := length_cbcEncrypt iv m s.rk (KeySize.nr ks)
  generalize cbcEncrypt iv m s.rk (KeySize.nr ks) = out at *
  have hlast : (pad m)[out.length - 17]? = some (BitVec.ofNat 8 (padLength m.length)) :=
    getElem?_pad (by omega) (by rw [length_pad]; omega)
  have hmsg : out.length - 16 - padLength m.length = m.length := by rw [padLength]; omega
  rw [exec_cbcDecrypt_of_accepted hks hlen hfits (by omega) (by omega) hin hpadded hlast, toNat_padByte,
    if_pos (padLength_bounds m.length), hmsg]

/-- OUT_LEN holds every length of a buffer (R11, R38). -/
theorem toNat_ofNat_length {n : Nat} (h : n ≤ 4096) : (BitVec.ofNat 32 n).toNat = n :=
  Nat.mod_eq_of_lt (by omega)

theorem bytesAt_of_append {a : Nat} {l r : List Byte} (h : bytesAt s a (l ++ r)) : bytesAt s a l := by
  intro k hk
  rw [h k (by rw [List.length_append]; omega), List.getElem?_append_left hk]

theorem bytesAt_finish_writeOut (c : ResultCode) (out : List Byte) (n : Nat) (s : State) :
    bytesAt (finish c (writeOut out n s)) outBase out := bytesAt_writeOut out n s

end Command

/-- Settles O53: the fields of `exec_cbcEncrypt_of_fits`'s state, and the blocks of the result by their number
(`blockOfBytes_drop_cbcEncrypt`). -/
theorem cbcEncryptResult : Obligations.CbcEncryptResult := by
  refine ⟨rfl, fun s ks m hks hlen hfits hm => ⟨_, _, exec_cbcEncrypt_of_fits hks hlen hfits hm, rfl, ?_, rfl,
    bytesAt_finish_writeOut _ _ _ s, fun a => byteAt_writeOut_outside _ m.length s a, ?_, ?_⟩⟩
  · exact length_cbcEncrypt _ _ _ _
  · exact blockOfBytes_cbcEncrypt _ _ _ _
  · exact fun j => blockOfBytes_drop_cbcEncrypt _ _ _ _

/-- Settles O54: p is the padded plaintext, whose blocks are `blockOfBytes_drop_cbcDecryptPadded`'s, and k its last byte,
by which the command completes in one of two ways (`exec_cbcDecrypt_of_accepted`). -/
theorem cbcDecryptResult : Obligations.CbcDecryptResult := by
  refine ⟨rfl, fun s ks d hks hlen hfits hmod hlt hd => ?_⟩
  have hplen : (cbcDecryptPadded d s.rk (KeySize.nr ks)).length = d.length - 16 := by
    rw [length_cbcDecryptPadded]; omega
  have hk := List.getElem?_eq_getElem
    (show d.length - 17 < (cbcDecryptPadded d s.rk (KeySize.nr ks)).length by omega)
  refine ⟨_, _, hplen, hk, fun j hj => blockOfBytes_drop_cbcDecryptPadded _ _ hj, ?_⟩
  rw [exec_cbcDecrypt_of_accepted hks hlen hfits hmod hlt hd rfl hk]
  split
  · exact ⟨_, rfl, rfl, rfl, bytesAt_finish_writeOut _ _ _ s,
      fun a ha => byteAt_writeOut_outside _ d.length s a (by rwa [hplen])⟩
  · rfl

/-- Settles O55: decryption gives back the padded message, whose last byte is the length of its pad
(`exec_cbcDecrypt_cbcEncrypt`); the message is the head of what then stands in OUT. -/
theorem cbcRoundTrip : Obligations.CbcRoundTrip := by
  rintro s ks m hks ⟨-, -, hmax⟩ hlen hfits hm
  refine ⟨_, exec_cbcEncrypt_of_fits hks hlen hfits hm, fun u huks hurk hubuf hulen hcopy => ?_⟩
  rw [finish_outLen, writeOut_outLen] at hulen hcopy
  have houtLen := length_cbcEncrypt (blockOfReg s.iv) m s.rk (KeySize.nr ks)
  rw [toNat_ofNat_length (by omega)] at hcopy
  rw [← hurk] at hulen houtLen hcopy
  have hin : bytesAt u inBase (cbcEncrypt (blockOfReg s.iv) m u.rk (KeySize.nr ks)) :=
    fun k hk => (hcopy k hk).trans (bytesAt_finish_writeOut _ _ _ s k hk)
  refine ⟨_, exec_cbcDecrypt_cbcEncrypt huks ?_ (by omega) hin, rfl, ?_,
    bytesAt_of_append (bytesAt_finish_writeOut _ (pad m) _ u)⟩
  · rw [hulen, toNat_ofNat_length (by omega)]
  · exact toNat_ofNat_length (by omega)

end Sys2Proof.Machine
end

section
/-! PROOFS. The counter mode (46_counter_mode.md): the increment as an addition of numbers, the keystream byte by byte and
its round trip, and the commands CTR_INCREMENT, CTR_ENCRYPT and CTR_DECRYPT (R190 to R194). -/

namespace Sys2Proof.Machine

/-! ## The increment (R190)

The loop of R190 goes from the last byte to the first, so it adds 1 to the number whose base-256 digits, the least first, are
the bytes reversed. -/

/-- The number whose base-256 digits are the bytes, the least first. -/
def digitsValue (l : List Byte) : Nat := Nat.ofDigits 256 (l.map BitVec.toNat)

theorem digitsValue_cons (b : Byte) (l : List Byte) : digitsValue (b :: l) = b.toNat + 256 * digitsValue l :=
  Nat.ofDigits_cons

theorem digitsValue_lt (l : List Byte) : digitsValue l < 256 ^ l.length := by
  have h := Nat.ofDigits_lt_base_pow_length (b := 256) (l := l.map BitVec.toNat) (by decide)
    (List.forall_mem_map.2 fun b _ => b.isLt)
  rwa [List.length_map] at h

theorem blockValue_eq_digitsValue (b : Block) : blockValue b = digitsValue (blockBytes b).reverse := by
  simp only [blockValue, digitsValue, Nat.ofDigits_eq_foldr, List.foldr_map, List.foldr_reverse, Nat.cast_id, Nat.add_comm]

theorem length_incBytes (l : List Byte) : (incBytes l).length = l.length := by
  induction l with
  | nil => rfl
  | cons b l ih => rw [incBytes]; split <;> simp [ih]

/-- A byte that does not become 0x00 ends the carry; one that does was 0xFF, and the carry goes on. -/
theorem digitsValue_incBytes (l : List Byte) : digitsValue (incBytes l) = (digitsValue l + 1) % 256 ^ l.length := by
  induction l with
  | nil => rfl
  | cons b l ih =>
    have hlt := digitsValue_lt l
    rw [incBytes, digitsValue_cons, List.length_cons, Nat.pow_succ']
    split
    next hne =>
      have hb : (b + 1).toNat = b.toNat + 1 := by bv_omega
      have hsmall : b.toNat + 1 < 256 := hb ▸ (b + 1).isLt
      rw [digitsValue_cons, hb, Nat.mod_eq_of_lt (by omega)]
      omega
    next heq =>
      have hb : b.toNat = 255 := by bv_omega
      rw [digitsValue_cons, not_not.1 heq, ih, hb,
        show 255 + 256 * digitsValue l + 1 = 256 * (digitsValue l + 1) by omega, Nat.mul_mod_mul_left]
      exact Nat.zero_add _

theorem blockBytes_inc128 (b : Block) : blockBytes (inc128 b) = (incBytes (blockBytes b).reverse).reverse := by
  have hlen : (incBytes (blockBytes b).reverse).reverse.length = 16 := by simp [length_incBytes]
  rw [inc128, blockBytes_blockOfBytes _ hlen.ge, List.take_of_length_le hlen.le]

theorem blockValue_inc128 (b : Block) : blockValue (inc128 b) = (blockValue b + 1) % 2 ^ 128 := by
  rw [blockValue_eq_digitsValue, blockBytes_inc128, List.reverse_reverse, digitsValue_incBytes,
    ← blockValue_eq_digitsValue, List.length_reverse, length_blockBytes, show 256 ^ 16 = 2 ^ 128 from rfl]

/-- Settles O56: BLK_OUT takes `inc128` of BLK_IN, which is the sum modulo 2^128 (`blockValue_inc128`). -/
theorem ctrIncrementResult : Obligations.CtrIncrementResult := by
  refine ⟨rfl, fun s => ⟨_, rfl, rfl, ?_⟩⟩
  rw [finish_blkOut, setBlkOut_blkOut, blockOfReg_regOfBlock, blockValue_inc128]

/-! ## The keystream (R191) -/

theorem blockBytes_xorBlock (a b : Block) :
    blockBytes (xorBlock a b) = List.zipWith (· ^^^ ·) (blockBytes a) (blockBytes b) := rfl

theorem fullBlocks_of_lt {l : List Byte} (h : l.length < 16) : fullBlocks l = [] :=
  List.eq_nil_of_length_eq_zero (by rw [length_fullBlocks]; omega)

theorem tailBytes_of_lt {l : List Byte} (h : l.length < 16) : tailBytes l = l := by
  rw [tailBytes, Nat.div_eq_of_lt h, Nat.mul_zero, List.drop_zero]

theorem tailBytes_drop {l : List Byte} (h : 16 ≤ l.length) : tailBytes (l.drop 16) = tailBytes l := by
  have hcount : 16 + 16 * ((l.length - 16) / 16) = 16 * (l.length / 16) := by omega
  rw [tailBytes, tailBytes, List.drop_drop, List.length_drop, hcount]

section Keystream

variable (w : Vector Word 60) (nr : Nat)

/-- Byte k of the keystream of R191: byte k mod 16 of Cipher of the counter after k div 16 increments. -/
def keystreamByte (iv : Block) (k : Nat) : Byte :=
  (blockBytes (cipher (inc128^[k / 16] iv) w nr)).getD (k % 16) 0

theorem keystreamByte_of_lt (iv : Block) {k : Nat} (h : k < 16) :
    keystreamByte w nr iv k = (blockBytes (cipher iv w nr)).getD k 0 := by
  rw [keystreamByte, Nat.div_eq_of_lt h, Nat.mod_eq_of_lt h, Function.iterate_zero_apply]

theorem keystreamByte_add (iv : Block) (k : Nat) :
    keystreamByte w nr iv (k + 16) = keystreamByte w nr (inc128 iv) k := by
  rw [keystreamByte, keystreamByte, Nat.add_mod_right, Nat.add_div_right k (by decide), Function.iterate_succ_apply]

theorem ctrXcrypt_nil (iv : Block) : ctrXcrypt iv [] w nr = [] := rfl

/-- The first 16 bytes, or all when there are fewer, take Cipher(counter), and the rest the counter incremented: full blocks
and leftover bytes alike. -/
theorem ctrXcrypt_eq_append (iv : Block) (d : List Byte) : ctrXcrypt iv d w nr =
    List.zipWith (· ^^^ ·) d (blockBytes (cipher iv w nr)) ++ ctrXcrypt (inc128 iv) (d.drop 16) w nr := by
  by_cases h : d.length < 16
  · rw [List.drop_of_length_le h.le, ctrXcrypt_nil, List.append_nil, ctrXcrypt, fullBlocks_of_lt h, tailBytes_of_lt h]
    rfl
  · have h16 : 16 ≤ d.length := Nat.le_of_not_lt h
    have hfirst : blockBytes (xorBlock (blockOfBytes d) (cipher iv w nr)) =
        List.zipWith (· ^^^ ·) d (blockBytes (cipher iv w nr)) := by
      rw [blockBytes_xorBlock, blockBytes_blockOfBytes d h16, List.zipWith_eq_zipWith_take_min (l₁ := d),
        length_blockBytes, Nat.min_eq_right h16, List.take_of_length_le (l := blockBytes _) (length_blockBytes _).le]
    rw [ctrXcrypt, fullBlocks_eq_cons h16, ← tailBytes_drop h16, ctrXcrypt, ← hfirst, ctrBlocks, ← List.append_assoc]
    rfl

theorem getElem?_ctrXcrypt (iv : Block) (d : List Byte) (k : Nat) :
    (ctrXcrypt iv d w nr)[k]? = d[k]?.map (· ^^^ keystreamByte w nr iv k) := by
  induction k using Nat.strongRecOn generalizing iv d with
  | ind k ih =>
    by_cases hd : k < d.length
    · rw [ctrXcrypt_eq_append]
      by_cases hk : k < 16
      · rw [List.getElem?_append_left (by rw [List.length_zipWith, length_blockBytes]; omega), keystreamByte_of_lt w nr iv hk]
        simp [hd, hk]
      · obtain ⟨j, rfl⟩ := Nat.exists_eq_add_of_le' (Nat.le_of_not_lt hk)
        have hlen : (List.zipWith (· ^^^ ·) d (blockBytes (cipher iv w nr))).length = 16 := by
          rw [List.length_zipWith, length_blockBytes]; omega
        rw [List.getElem?_append_right (by omega), hlen, Nat.add_sub_cancel, ih j (by omega), List.getElem?_drop,
          keystreamByte_add, Nat.add_comm]
    · rw [List.getElem?_eq_none (by simpa using hd), List.getElem?_eq_none (by simpa using hd), Option.map_none]

theorem getD_ctrXcrypt (iv : Block) {d : List Byte} {k : Nat} (h : k < d.length) :
    (ctrXcrypt iv d w nr).getD k 0 = d.getD k 0 ^^^ keystreamByte w nr iv k := by
  simp only [List.getD_eq_getElem?_getD, getElem?_ctrXcrypt, List.getElem?_eq_getElem h, Option.map_some,
    Option.getD_some]

/-- The keystream depends on the counter alone, and ⊕ undoes itself. -/
theorem ctrXcrypt_ctrXcrypt (iv : Block) (d : List Byte) : ctrXcrypt iv (ctrXcrypt iv d w nr) w nr = d := by
  refine List.ext_getElem? fun k => ?_
  have hcancel : (· ^^^ keystreamByte w nr iv k) ∘ (· ^^^ keystreamByte w nr iv k) = id :=
    funext fun b => by simp
  rw [getElem?_ctrXcrypt, getElem?_ctrXcrypt, Option.map_map, hcancel, Option.map_id, id]

end Keystream

/-! ## The commands (R193, R194) -/

section Command

variable {s : State} {ks : KeySize}

theorem exec_ctrEncrypt_of_fits {m : List Byte} (hks : s.rkInfo = some ks) (hlen : s.inLen.toNat = m.length)
    (hfits : m.length + 16 ≤ s.bufBytes) (hm : bytesAt s inBase m) :
    exec .ctrEncrypt s = .next (finish .ok (writeOut
      (blockBytes (blockOfReg s.iv) ++ ctrXcrypt (blockOfReg s.iv) m s.rk (KeySize.nr ks)) (m.length + 16) s)) := by
  rw [exec, execCtrEncrypt, withSchedule_of_some hks, hlen]
  dsimp only
  rw [if_neg (by omega), withInput_of_bytesAt s m _ hm, complete]

theorem exec_ctrDecrypt_of_accepted {d : List Byte} (hks : s.rkInfo = some ks) (hlen : s.inLen.toNat = d.length)
    (hfits : d.length ≤ s.bufBytes) (hge : 16 ≤ d.length) (hd : bytesAt s inBase d) :
    exec .ctrDecrypt s = .next (finish .ok (writeOut
      (ctrXcrypt (blockOfBytes d) (d.drop 16) s.rk (KeySize.nr ks)) (d.length - 16) s)) := by
  rw [exec, execCtrDecrypt, withSchedule_of_some hks, hlen]
  dsimp only
  rw [if_neg (by omega), if_neg (by omega), withInput_of_bytesAt s d _ hd, complete]

/-- On the result of CTR_ENCRYPT the decryption finds the IV in front and writes the message. -/
theorem exec_ctrDecrypt_ctrXcrypt {iv : Block} {m : List Byte} (hks : s.rkInfo = some ks)
    (hlen : s.inLen.toNat = m.length + 16) (hfits : m.length + 16 ≤ s.bufBytes)
    (hin : bytesAt s inBase (blockBytes iv ++ ctrXcrypt iv m s.rk (KeySize.nr ks))) :
    exec .ctrDecrypt s = .next (finish .ok (writeOut m m.length s)) := by
  have hout : (blockBytes iv ++ ctrXcrypt iv m s.rk (KeySize.nr ks)).length = m.length + 16 := by simp [Nat.add_comm]
  rw [exec_ctrDecrypt_of_accepted hks (hlen.trans hout.symm) (by omega) (by omega) hin, hout, blockOfBytes_blockBytes,
    drop_blockBytes, ctrXcrypt_ctrXcrypt, Nat.add_sub_cancel]

end Command

/-- Settles O57: the state of `exec_ctrEncrypt_of_fits`, and the bytes after the IV by their number (`getD_ctrXcrypt`). -/
theorem ctrEncryptResult : Obligations.CtrEncryptResult := by
  refine ⟨rfl, fun s ks m hks hlen hfits hm => ⟨_, _, exec_ctrEncrypt_of_fits hks hlen hfits hm, rfl,
    length_ctrXcrypt _ m _ _, bytesAt_finish_writeOut _ _ _ s, fun a ha => byteAt_writeOut_outside _ m.length s a ?_,
    fun k => getD_ctrXcrypt _ _ _⟩⟩
  rwa [List.length_append, length_blockBytes, length_ctrXcrypt, Nat.add_comm 16]

/-- Settles O58: the state of `exec_ctrDecrypt_of_accepted`, and the bytes of the result by their number
(`getD_ctrXcrypt`), each of the input 16 places further on. -/
theorem ctrDecryptResult : Obligations.CtrDecryptResult := by
  refine ⟨rfl, fun s ks d hks hlen hfits hge hd => ?_⟩
  have hout : (ctrXcrypt (blockOfBytes d) (d.drop 16) s.rk (KeySize.nr ks)).length = d.length - 16 := by simp
  refine ⟨_, _, exec_ctrDecrypt_of_accepted hks hlen hfits hge hd, rfl, hout, bytesAt_finish_writeOut _ _ _ s,
    fun a ha => byteAt_writeOut_outside _ d.length s a (by rwa [hout]), fun k hk => ?_⟩
  rw [getD_ctrXcrypt _ _ _ (by rwa [List.length_drop]), List.getD_eq_getElem?_getD, List.getElem?_drop,
    ← List.getD_eq_getElem?_getD, keystreamByte]

/-- Settles O59: the copy in IN is the IV and the encrypted message, which decryption turns back into the message
(`exec_ctrDecrypt_ctrXcrypt`). -/
theorem ctrRoundTrip : Obligations.CtrRoundTrip := by
  rintro s ks m hks ⟨-, -, hmax⟩ hlen hfits hm
  refine ⟨_, exec_ctrEncrypt_of_fits hks hlen hfits hm, fun u huks hurk hubuf hulen hcopy => ?_⟩
  rw [finish_outLen, writeOut_outLen] at hulen hcopy
  rw [toNat_ofNat_length (by omega)] at hcopy
  have hin : bytesAt u inBase
      (blockBytes (blockOfReg s.iv) ++ ctrXcrypt (blockOfReg s.iv) m u.rk (KeySize.nr ks)) := by
    rw [hurk]
    exact fun k hk => (hcopy k (by simpa [Nat.add_comm] using hk)).trans (bytesAt_finish_writeOut _ _ _ s k hk)
  refine ⟨_, exec_ctrDecrypt_ctrXcrypt huks ?_ (by omega) hin, rfl, toNat_ofNat_length (by omega),
    bytesAt_finish_writeOut _ m _ u⟩
  rw [hulen, toNat_ofNat_length (by omega)]

end Sys2Proof.Machine
end

section
/-! PROOFS. What each command answers: that it ends unless it reads an unwritten byte, the codes it raises and when, and
the one destination it stores in (47_control.md and 60_exceptions.md: R203, R207, R210 to R219). -/

namespace Sys2Proof.Machine

variable {s t u : State} {i : Instr}

/-! ## The answers of the machine (R203, R241) -/

/-- `Answers F P r`: r is a next state of which P holds, or the fault at an unwritten byte of which F holds (log 3). -/
inductive Answers (F : Nat → Prop) (P : State → Prop) : Result → Prop
  | next {t : State} (h : P t) : Answers F P (.next t)
  | fault {a : Nat} (h : F a) : Answers F P (.fault (.unwrittenByte a))

section

variable {F F' : Nat → Prop} {P P' : State → Prop} {r r' : Result}

theorem Answers.of_next (h : Answers F P (.next t)) : P t := by
  cases h with
  | next h => exact h

theorem Answers.next_or_fault (h : Answers F P r) :
    (∃ t, r = .next t ∧ P t) ∨ ∃ a, r = .fault (.unwrittenByte a) ∧ F a := by
  cases h with
  | next h => exact .inl ⟨_, rfl, h⟩
  | fault h => exact .inr ⟨_, rfl, h⟩

theorem Answers.imp (h : Answers F P r) (hF : ∀ a, F a → F' a) (hP : ∀ t, P t → P' t) : Answers F' P' r := by
  cases h with
  | next h => exact .next (hP _ h)
  | fault h => exact .fault (hF _ h)

theorem Answers.ite {c : Prop} [Decidable c] (h : c → Answers F P r) (h' : ¬ c → Answers F P r') :
    Answers F P (if c then r else r') := by
  split
  · next hc => exact h hc
  · next hc => exact h' hc

/-- The unwritten bytes among the first n of IN. -/
def UnwrittenInput (s : State) (n a : Nat) : Prop := ∃ k, k < n ∧ a = inBase + k ∧ byteAt s a = none

theorem Answers.withInput {n : Nat} {rest : List Byte → Result}
    (hrest : ∀ bs, bs.length = n → Answers (UnwrittenInput s n) P (rest bs)) :
    Answers (UnwrittenInput s n) P (withInput n s rest) := by
  rcases withInput_eq n s rest with ⟨bs, hlen, -, e⟩ | ⟨k, hk, hnone, e⟩ <;> rw [e]
  · exact hrest bs hlen
  · exact .fault ⟨k, hk, rfl, hnone⟩

end

/-! ## How each command ends -/

/-- The table of R217: when a mode command's input or output does not fit its buffer. -/
def LengthOverflows (i : Instr) (s : State) : Prop :=
  (i = .cbcEncrypt ∧
    (s.inLen.toNat > s.bufBytes ∨ s.inLen.toNat + 32 - s.inLen.toNat % 16 > s.bufBytes)) ∨
  (i = .cbcDecrypt ∧ s.inLen.toNat > s.bufBytes) ∨ (i = .ctrEncrypt ∧ s.inLen.toNat + 16 > s.bufBytes) ∨
  (i = .ctrDecrypt ∧ s.inLen.toNat > s.bufBytes)

/-- R214: when an input is no ciphertext by its length. -/
def BadCiphertextLength (i : Instr) (s : State) : Prop :=
  (i = .cbcDecrypt ∧ (s.inLen.toNat % 16 ≠ 0 ∨ s.inLen.toNat ≤ 16)) ∨ (i = .ctrDecrypt ∧ s.inLen.toNat < 16)

/-- What holds of the state when the command raises the code; nothing is said of the codes that have a statement of
their own (R212, R215, R218). -/
def RaisedWhen (i : Instr) (s : State) : ResultCode → Prop
  | .noKey => s.rkInfo = none
  | .lengthOverflow => LengthOverflows i s
  | .invalidCiphertextLength => BadCiphertextLength i s
  | .invalidKey | .paddingError | .badRound => True
  | .ok | .invalidBlockLength | .illegalCommand => False

/-- The number of OUT bytes that a mode command's rule names, from IN_LEN alone (R181, R182, R191). -/
def outCount (i : Instr) (s : State) : Nat :=
  match i with
  | .cbcEncrypt => s.inLen.toNat + 32 - s.inLen.toNat % 16
  | .ctrEncrypt => s.inLen.toNat + 16
  | _ => s.inLen.toNat - 16

theorem outCount_cbcEncrypt (s : State) : outCount .cbcEncrypt s = s.inLen.toNat + 32 - s.inLen.toNat % 16 := rfl

theorem outCount_ctrEncrypt (s : State) : outCount .ctrEncrypt s = s.inLen.toNat + 16 := rfl

theorem outCount_cbcDecrypt (s : State) : outCount .cbcDecrypt s = s.inLen.toNat - 16 := rfl

theorem outCount_ctrDecrypt (s : State) : outCount .ctrDecrypt s = s.inLen.toNat - 16 := rfl

/-- u is s with what command i stores when it ends with ERR = OK (R207). -/
def StoredBy (i : Instr) (s u : State) : Prop :=
  match i with
  | .nop => u = s
  | .gfXtime | .gfMul | .sbox | .invSbox | .subWord | .rotWord => ∃ v, u = setRes v s
  | .subBytes | .invSubBytes | .shiftRows | .invShiftRows | .mixColumns | .invMixColumns | .addRoundKey _ =>
    ∃ b, u = setStateBlock b s
  | .keyExpand => ∃ w ks, u = setSchedule w ks s
  | .encryptBlock | .decryptBlock | .ctrIncrement => ∃ b, u = setBlkOut b s
  | .cbcEncrypt | .cbcDecrypt | .ctrEncrypt | .ctrDecrypt =>
    ∃ out len, out.length = outCount i s ∧ u = writeOut out len s

/-- `Ends i s t`: t ends command i on s, by an error completion that its rule calls for, or over what it stores. -/
inductive Ends (i : Instr) (s : State) : State → Prop
  | error {c : ResultCode} (h : RaisedWhen i s c) : Ends i s (finish c s)
  | ok {u : State} (h : StoredBy i s u) : Ends i s (finish .ok u)

/-- How many bytes of IN a command reads (R183, R184, R193, R194). -/
def inCount (i : Instr) (s : State) : Nat := if isMode i then s.inLen.toNat else 0

section

variable {F : Nat → Prop}

theorem Answers.raise {c : ResultCode} (h : RaisedWhen i s c) : Answers F (Ends i s) (raise c s) := .next (.error h)

/-- A keyed command ends as it may when the rest of it does under every schedule (R216). -/
theorem Answers.withSchedule {rest : KeySize → Result} (h : ∀ ks, Answers F (Ends i s) (rest ks)) :
    Answers F (Ends i s) (withSchedule s rest) := by
  rcases withSchedule_eq s rest with ⟨hnone, e⟩ | ⟨ks, -, e⟩ <;> rw [e]
  · exact .next (.error (c := .noKey) hnone)
  · exact h ks

theorem Answers.complete_writeOut (hmode : isMode i = true) {out : List Byte} {len : Nat}
    (h : out.length = outCount i s) : Answers F (Ends i s) (complete (writeOut out len s)) := by
  refine .next (.ok ?_)
  cases i with
  | cbcEncrypt | cbcDecrypt | ctrEncrypt | ctrDecrypt => exact ⟨out, len, h, rfl⟩
  | _ => cases hmode

end

theorem execCbcEncrypt_ends (s : State) :
    Answers (UnwrittenInput s s.inLen.toNat) (Ends .cbcEncrypt s) (execCbcEncrypt s) := by
  refine .withSchedule fun ks => .ite (fun h => .raise (.inl ⟨rfl, h⟩)) fun _ => .withInput fun m hlen => ?_
  exact .complete_writeOut rfl (by rw [length_cbcEncrypt, hlen, outCount_cbcEncrypt])

/-- Of an accepted length the padded plaintext is all of the input but its first block. -/
theorem execCbcDecrypt_ends (s : State) :
    Answers (UnwrittenInput s s.inLen.toNat) (Ends .cbcDecrypt s) (execCbcDecrypt s) := by
  refine .withSchedule fun ks => .ite (fun h => ?_) fun _ => .ite (fun h => ?_) fun haccepted =>
    .withInput fun d hlen => .ite (fun _ => ?_) fun _ => ?_
  · exact .raise (.inr (.inl ⟨rfl, h⟩))
  · exact .raise (.inl ⟨rfl, h⟩)
  · exact .raise trivial
  · refine .complete_writeOut rfl ?_
    rw [length_cbcDecryptPadded, hlen, outCount_cbcDecrypt]
    omega

theorem execCtrEncrypt_ends (s : State) :
    Answers (UnwrittenInput s s.inLen.toNat) (Ends .ctrEncrypt s) (execCtrEncrypt s) := by
  refine .withSchedule fun ks => .ite (fun h => .raise (.inr (.inr (.inl ⟨rfl, h⟩)))) fun _ =>
    .withInput fun m hlen => .complete_writeOut rfl ?_
  rw [List.length_append, length_blockBytes, length_ctrXcrypt, hlen, Nat.add_comm, outCount_ctrEncrypt]

theorem execCtrDecrypt_ends (s : State) :
    Answers (UnwrittenInput s s.inLen.toNat) (Ends .ctrDecrypt s) (execCtrDecrypt s) := by
  refine .withSchedule fun ks => .ite (fun h => ?_) fun _ => .ite (fun h => ?_) fun _ => .withInput fun d hlen => ?_
  · exact .raise (.inr (.inr (.inr ⟨rfl, h⟩)))
  · exact .raise (.inr ⟨rfl, h⟩)
  · refine .complete_writeOut rfl ?_
    rw [length_ctrXcrypt, List.length_drop, hlen, outCount_ctrDecrypt]

theorem execKeyExpand_ends {F : Nat → Prop} (s : State) : Answers F (Ends .keyExpand s) (execKeyExpand s) := by
  unfold execKeyExpand
  split
  · exact .raise trivial
  · exact .next (.ok ⟨_, _, rfl⟩)

/-- Everything each command can answer, in every state (R98, R203). -/
theorem exec_ends (i : Instr) (s : State) : Answers (UnwrittenInput s (inCount i s)) (Ends i s) (exec i s) := by
  cases i with
  | nop => exact .next (.ok rfl)
  | gfXtime | gfMul | sbox | invSbox | subWord | rotWord => exact .next (.ok ⟨_, rfl⟩)
  | subBytes | invSubBytes | shiftRows | invShiftRows | mixColumns | invMixColumns => exact .next (.ok ⟨_, rfl⟩)
  | ctrIncrement => exact .next (.ok ⟨_, rfl⟩)
  | addRoundKey round =>
    exact .withSchedule fun ks => .ite (fun _ => .raise trivial) fun _ => .next (.ok ⟨_, rfl⟩)
  | keyExpand => exact execKeyExpand_ends s
  | encryptBlock | decryptBlock => exact .withSchedule fun ks => .next (.ok ⟨_, rfl⟩)
  | cbcEncrypt => exact execCbcEncrypt_ends s
  | cbcDecrypt => exact execCbcDecrypt_ends s
  | ctrEncrypt => exact execCtrEncrypt_ends s
  | ctrDecrypt => exact execCtrDecrypt_ends s

theorem ends_of_exec (h : exec i s = .next t) : Ends i s t := (h ▸ exec_ends i s).of_next

end Sys2Proof.Machine
end

section
/-! PROOFS. The statements about every command: totality, precise errors and their codes, and the frames (47_control.md,
60_exceptions.md). -/

namespace Sys2Proof.Machine

variable {s t u : State} {i : Instr}

/-! ## Totality and the codes (R203, R210 to R219) -/

/-- Settles O26: the one answer that is no next state is the fault at an unwritten byte of the input (`exec_ends`), and
only a mode command reads input. -/
theorem everyCommandCompletes : Obligations.EveryCommandCompletes := by
  intro i s hwritten
  rcases (exec_ends i s).next_or_fault with ⟨t, e, hends⟩ | ⟨_, -, k, hk, rfl, hnone⟩
  · exact ⟨t, e, by cases hends <;> exact ⟨rfl, rfl⟩⟩
  · unfold inCount at hk
    split at hk
    · next hmode => exact absurd hnone (hwritten hmode k hk)
    · exact absurd hk (Nat.not_lt_zero k)

/-- Settles O28: an error completion is `raise` on the state itself (`exec_completed`). -/
theorem errorCompletionsArePrecise : Obligations.ErrorCompletionsArePrecise := by
  intro i s t h herr
  cases exec_completed h with
  | error => exact ⟨rfl, rfl⟩
  | ok => exact absurd rfl herr

theorem err_mem_possibleCodes (h : exec i s = .next t) : t.err ∈ possibleCodes i := by
  cases exec_completed h with
  | error _ hraised => exact hraised
  | ok => cases i <;> exact List.mem_cons_self

/-- Settles O29: a completion's code is one that its command lists (`err_mem_possibleCodes`). -/
theorem resultCodesOfCommands : Obligations.ResultCodesOfCommands :=
  ⟨fun _ _ _ => err_mem_possibleCodes, invalidBlockLength_notMem_possibleCodes, rfl⟩

theorem Ends.raisedWhen (h : Ends i s t) (herr : t.err ≠ .ok) : RaisedWhen i s t.err := by
  cases h with
  | error h => exact h
  | ok => exact absurd rfl herr

theorem raisedWhen_of_exec {c : ResultCode} (h : exec i s = .next t) (herr : t.err = c) (hc : c ≠ .ok) :
    RaisedWhen i s c :=
  herr ▸ (ends_of_exec h).raisedWhen (herr ▸ hc)

/-- The fifteen commands that read no schedule (R216). -/
def unkeyed : List Instr :=
  [.nop, .gfXtime, .gfMul, .sbox, .invSbox, .subWord, .rotWord, .subBytes, .invSubBytes, .shiftRows, .invShiftRows,
    .mixColumns, .invMixColumns, .keyExpand, .ctrIncrement]

/-- Settles O30: `withSchedule` comes before every other check; and NO_KEY is raised by nothing else (`RaisedWhen`), nor
listed for a command that is not keyed. -/
theorem noKeyIsRaised : Obligations.NoKeyIsRaised := by
  refine ⟨fun i s hnone hi => ?_, fun i s t ks hks h herr => ?_, fun i s t hi h herr => ?_⟩
  · simp only [List.mem_cons, List.not_mem_nil, or_false] at hi
    rcases hi with ⟨round, rfl⟩ | rfl | rfl | rfl | rfl | rfl | rfl
    · exact exec_addRoundKey_of_none hnone round
    all_goals exact withSchedule_of_none hnone _
  · have hnone : s.rkInfo = none := raisedWhen_of_exec h herr nofun
    rw [hnone] at hks
    cases hks
  · have hmem := err_mem_possibleCodes h
    rw [herr] at hmem
    exact (show ∀ j ∈ unkeyed, ResultCode.noKey ∉ possibleCodes j by decide) i hi hmem

/-- Settles O31: each check is the first one reached under its condition, and either code is raised under no other
(`RaisedWhen`). -/
theorem lengthErrorsAreRaised : Obligations.LengthErrorsAreRaised := by
  intro s ks hks
  have hkeyed (rest : KeySize → Result) := withSchedule_of_some hks rest
  refine ⟨fun h => (hkeyed _).trans (if_pos h), fun h => ⟨(hkeyed _).trans (if_pos h), (hkeyed _).trans (if_pos h)⟩,
    fun h => (hkeyed _).trans (if_pos h),
    fun hfits h => (hkeyed _).trans ((if_neg (Nat.not_lt.2 hfits)).trans (if_pos h)),
    fun hfits h => (hkeyed _).trans ((if_neg (Nat.not_lt.2 hfits)).trans (if_pos h)),
    fun i t h => ⟨fun herr => raisedWhen_of_exec h herr nofun, fun herr => raisedWhen_of_exec h herr nofun⟩⟩

/-! ## The frames (R207) -/

/-- Settles O33: the byte and word commands have one completion; the others end on the state itself or over what they
store (`ends_of_exec`), which is the one register. -/
theorem frameOfRegisterCommands : Obligations.FrameOfRegisterCommands := by
  refine ⟨fun s t h => ?_, fun i s t hi h => ?_, fun i s t hi h => ?_, fun i s t hi h => ?_⟩
  · cases h
    rfl
  · simp only [List.mem_cons, List.not_mem_nil, or_false] at hi
    rcases hi with rfl | rfl | rfl | rfl | rfl | rfl <;> cases h <;> exact ⟨rfl, fun _ => rfl⟩
  · have hstored : ∀ u, StoredBy i s u → ∃ b, u = setStateBlock b s := by
      simp only [List.mem_cons, List.not_mem_nil, or_false] at hi
      rcases hi with (rfl | rfl | rfl | rfl | rfl | rfl) | ⟨round, rfl⟩ <;> exact fun _ hu => hu
    cases ends_of_exec h with
    | error => exact ⟨rfl, fun _ => rfl⟩
    | ok hu =>
      obtain ⟨b, rfl⟩ := hstored _ hu
      exact ⟨rfl, fun _ => rfl⟩
  · have hstored : ∀ u, StoredBy i s u → ∃ b, u = setBlkOut b s := by
      simp only [List.mem_cons, List.not_mem_nil, or_false] at hi
      rcases hi with rfl | rfl | rfl <;> exact fun _ hu => hu
    cases ends_of_exec h with
    | error => exact ⟨rfl, fun _ => rfl⟩
    | ok hu =>
      obtain ⟨b, rfl⟩ := hstored _ hu
      exact ⟨rfl, fun _ => rfl⟩

/-- Settles O34: KEY_EXPAND ends on the state itself, or over its new schedule. -/
theorem frameOfKeyExpand : Obligations.FrameOfKeyExpand := by
  intro s t h
  cases ends_of_exec h with
  | error => exact ⟨rfl, fun _ => rfl⟩
  | ok hu =>
    obtain ⟨w, ks, rfl⟩ := hu
    exact ⟨rfl, fun _ => rfl⟩

/-- Settles O35: a mode command ends on the state itself, or over a result of the length that its rule names
(`outCount`), which `writeOut` puts from OUTBASE on. -/
theorem frameOfModeCommands : Obligations.FrameOfModeCommands := by
  intro i n s t hi h
  have hstored : ∀ u, StoredBy i s u → ∃ out len, out.length = n ∧ u = writeOut out len s := by
    rcases hi with ⟨rfl, rfl⟩ | ⟨rfl, rfl⟩ | ⟨rfl, rfl⟩ | ⟨rfl, rfl⟩ <;> exact fun _ hu => hu
  cases ends_of_exec h with
  | error => exact ⟨rfl, fun _ _ => rfl⟩
  | ok hu =>
    obtain ⟨out, len, rfl, rfl⟩ := hstored _ hu
    exact ⟨rfl, fun a => byteAt_writeOut_outside out len s a⟩

end Sys2Proof.Machine
end

section
/-! PROOFS. Control transfers (47_control.md): issue, discards while busy, STATUS, reads while busy and of unwritten
bytes, the command NOP, and the interrupt line (60_exceptions.md: R223, R224). -/

namespace Sys2Proof.Machine

variable {s t u : State} {i : Instr} {r : RegName}

/-! ## Writes of CMD, STATUS and while busy (R202, R205, R206) -/

/-- While busy a write of any register but STATUS and CTRL is discarded, with an OKAY response (R205). -/
theorem hostWrite_busy {off : Offset} (v : Word) (hb : State.busy s = true) (ha : aligned off = true)
    (hr : regAt s.bufBytes off = some r) (hctrl : r ≠ .ctrl) (hstatus : r ≠ .status) :
    hostWrite off v 0b1111 s = { s with ovr := true, resp := some .okayWrite } := by
  have hdiscard : writeReg r v s = setOverrun s := by
    rcases writeReg_eq r v s with ⟨h, -⟩ | ⟨h, -⟩ | ⟨-, -, -, e⟩ | ⟨-, h, -⟩ | ⟨-, -, -, h, -⟩
    · exact absurd h hstatus
    · exact absurd h hctrl
    · exact e
    · simp [hb] at h
    · simp [hb] at h
  rw [hostWrite_at v ha hr, hdiscard, respond_okayWrite]
  rfl

/-- Settles O14: CMD takes the word while idle (`hostWrite_cmd`) and is discarded like any other while busy. -/
theorem issueLatchesTheCommand : Obligations.IssueLatchesTheCommand := by
  intro s v
  refine ⟨fun hidle => ⟨hostWrite_cmd v hidle, ?_⟩, fun hb => hostWrite_busy (r := .cmd) v hb rfl rfl nofun nofun⟩
  rw [hostWrite_cmd v hidle]
  rfl

/-- A bit that a 1 written to it clears (R206). -/
theorem clear_eq_and_not (flag bit : Bool) : (if bit then false else flag) = (flag && !bit) := by
  cases bit <;> simp

theorem writeStatus_eq (v : Word) (s : State) :
    writeStatus v s = { s with done := s.done && !v.getLsbD 1, ovr := s.ovr && !v.getLsbD 2 } := by
  rw [writeStatus, clear_eq_and_not, clear_eq_and_not]

theorem hostWrite_status_eq (v : Word) (s : State) : hostWrite 0x014 v 0b1111 s =
    { s with done := s.done && !v.getLsbD 1, ovr := s.ovr && !v.getLsbD 2, resp := some .okayWrite } := by
  rw [hostWrite_status, writeStatus_eq]

/-- Settles O15: any mapped register but the two is discarded (`hostWrite_busy`); the two take the word in any state. -/
theorem busyWritesAreDiscarded : Obligations.BusyWritesAreDiscarded :=
  fun s v hb => ⟨fun _ _ ha hr => hostWrite_busy v hb ha hr, hostWrite_ctrl v s, hostWrite_status_eq v s⟩

theorem Stored.ie_eq (h : Stored s u) : u.ie = s.ie := by cases h <;> rfl

/-- Every completion ends the flight, sets DONE, and makes irq the IE bit (R203, R223). -/
theorem Completed.flags (h : Completed i s t) : t.latched = none ∧ t.done = true ∧ irq t = s.ie := by
  cases h with
  | error => exact ⟨rfl, rfl, rfl⟩
  | ok hstored => exact ⟨rfl, rfl, hstored.ie_eq⟩

theorem done_of_exec (h : exec i s = .next t) : t.done = true := by
  obtain ⟨-, hd, -⟩ := (exec_completed h).flags
  exact hd

theorem done_hostWrite_status {v : Word} (s : State) (hv : v.getLsbD 1 = true) :
    (hostWrite 0x014 v 0b1111 s).done = false := by
  rw [hostWrite_status_eq, hv]
  exact Bool.and_false _

/-- Settles O16: the write's whole state (`hostWrite_status_eq`), and DONE of every completion (`done_of_exec`). -/
theorem statusWriteOneToClear : Obligations.StatusWriteOneToClear := by
  refine fun s v => ⟨hostWrite_status_eq v s, fun hv => ?_, done_hostWrite_status s rfl, ?_,
    fun i t _ => done_hostWrite_status t, fun i t => done_of_exec⟩
  · rw [irq, done_hostWrite_status s hv, Bool.false_and]
  · rw [hostWrite_status_eq]
    exact Bool.and_false _

/-! ## Reads while busy (R201, R246) -/

theorem isResult_iff (r : RegName) : RegName.isResult r = true ↔
    (r = .res ∨ r = .rkinfo ∨ r = .outLen ∨ (∃ i, r = .state i) ∨ (∃ i, r = .blkOut i) ∨ (∃ i, r = .rk i) ∨
      ∃ a, r = .outWord a) := by
  cases r <;> simp [RegName.isResult]

theorem hostRead_free {off : Offset} (ha : aligned off = true) (hr : regAt s.bufBytes off = some r)
    (hb : State.busy s = true) (hres : RegName.isResult r = true) : hostRead off s = .ok (Config.freeRead s.draws,
      { s with resp := some (.okayRead (Config.freeRead s.draws)), draws := s.draws + 1 }) := by
  simp [hostRead, ha, hr, hb, hres, respond_okayRead, drawn]

/-- Settles O22: RESULT_SET is the list (`isResult_iff`); in it a read draws (`hostRead_free`), and outside it a read is
the same as while idle (`hostRead_offsetOf`). -/
theorem readsWhileBusy : Obligations.ReadsWhileBusy := by
  intro s r hb hn hr
  obtain ⟨ha, hat⟩ := regAt_offsetOf hn hr
  rw [← isResult_iff]
  refine ⟨hostRead_free ha hat hb, fun hres v hv => hostRead_offsetOf hn hr (.inr ?_) hv⟩
  exact Bool.eq_false_of_not_eq_true hres

/-! ## Unwritten bytes (R241, U1) -/

theorem memRead_of_unwritten {m : List Host.Cell} {n a : Nat} (h : ∃ k, k < n ∧ entryGet (a + k) m = none) :
    ∃ k, k < n ∧ entryGet (a + k) m = none ∧ memRead a n m = .error (.unwrittenByte (a + k)) := by
  cases e : memRead a n m with
  | ok bs =>
    obtain ⟨k, hk, hnone⟩ := h
    obtain ⟨hlen, hbytes⟩ := (memRead_ok_iff m n a bs).1 e
    rw [hbytes k hk, List.getElem?_eq_none_iff] at hnone
    omega
  | error f =>
    obtain ⟨k, hk, hnone, rfl⟩ := memRead_error m n a f e
    exact ⟨k, hk, hnone, rfl⟩

theorem memReadWord_of_unwritten {m : List Host.Cell} {a : Nat} (h : ∃ k, k < 4 ∧ entryGet (a + k) m = none) :
    ∃ k, k < 4 ∧ entryGet (a + k) m = none ∧ memReadWord a m = .error (.unwrittenByte (a + k)) := by
  obtain ⟨k, hk, hnone, e⟩ := memRead_of_unwritten h
  exact ⟨k, hk, hnone, by rw [memReadWord, e]⟩

/-- The word at four written bytes holds them, most significant first (R63). -/
theorem memReadWord_of_written {m : List Host.Cell} {a : Nat} (h : ∀ k, k < 4 → entryGet (a + k) m ≠ none) :
    ∃ v, memReadWord a m = .ok v ∧
      ∀ k : Fin 4, entryGet (a + k.val) m = some (v.extractLsb' (24 - 8 * k.val) 8) := by
  obtain ⟨bs, e⟩ := memRead_ok_of_written m 4 a h
  obtain ⟨hlen, hbytes⟩ := (memRead_ok_iff m 4 a bs).1 e
  obtain ⟨b0, b1, b2, b3, rfl⟩ := List.length_eq_four.1 hlen
  refine ⟨_, by rw [memReadWord, e], fun k => ?_⟩
  rw [hbytes k k.isLt, ← get_unpackWord, unpackWord_packWord]
  match k with
  | 0 | 1 | 2 | 3 => rfl

theorem hostRead_fault {off : Offset} {f : Fault} (ha : aligned off = true) (hr : regAt s.bufBytes off = some r)
    (hb : State.busy s = false ∨ RegName.isResult r = false) (hf : regWord r s = .error f) :
    hostRead off s = .error f := by
  have hplain : (State.busy s && RegName.isResult r) = false := by rcases hb with h | h <;> simp [h]
  simp [hostRead, ha, hr, hplain, hf]

theorem withInput_of_unwritten {n : Nat} (rest : List Byte → Result) (h : ¬ inputWritten s n) :
    ∃ k, k < n ∧ byteAt s (inBase + k) = none ∧ withInput n s rest = .fault (.unwrittenByte (inBase + k)) := by
  simp only [inputWritten, not_forall, not_not] at h
  obtain ⟨k, hk, hnone⟩ := h
  obtain ⟨j, hj, hnone, e⟩ := memRead_of_unwritten ⟨k, hk, hnone⟩
  exact ⟨j, hj, hnone, by rw [withInput, e]⟩

/-- Settles O23: a buffer word that the host may see reads its four bytes (`memReadWord_of_unwritten`,
`memReadWord_of_written`); a mode command past its checks reads its whole input (`withInput_of_unwritten`). -/
theorem unwrittenBytesFault : Obligations.UnwrittenBytesFault := by
  refine ⟨fun s a b r hn hr h => ?_, fun s ks hks hunwritten => ?_⟩
  · obtain ⟨ha, hat⟩ := regAt_offsetOf hn hr
    obtain ⟨hb, hword⟩ : (State.busy s = false ∨ RegName.isResult r = false) ∧ regWord r s = memReadWord b s.mem := by
      rcases h with ⟨rfl, rfl⟩ | ⟨rfl, rfl, hidle⟩
      · exact ⟨.inr rfl, rfl⟩
      · exact ⟨.inl hidle, rfl⟩
    refine ⟨fun h => ?_, fun h => ?_⟩
    · obtain ⟨k, hk, hnone, e⟩ := memReadWord_of_unwritten h
      exact ⟨k, hk, hnone, hostRead_fault ha hat hb (hword.trans e)⟩
    · obtain ⟨v, e, hbytes⟩ := memReadWord_of_written h
      exact ⟨v, _, hostRead_at ha hat hb (hword.trans e), hbytes⟩
  · have hfault (rest : List Byte → Result) := withInput_of_unwritten rest hunwritten
    simp only [exec, execCbcEncrypt, execCbcDecrypt, execCtrEncrypt, execCtrDecrypt, withSchedule_of_some hks]
    refine ⟨fun h => ?_, fun hfits hmod hlt => ?_, fun h => ?_, fun hfits hge => ?_⟩
    · rw [if_neg (by omega)]
      exact hfault _
    · rw [if_neg (by omega), if_neg (by omega)]
      exact hfault _
    · rw [if_neg (by omega)]
      exact hfault _
    · rw [if_neg (by omega), if_neg (by omega)]
      exact hfault _

/-! ## NOP (R93, R204) -/

theorem eq_zero_of_decode {w : Word} (h : decode w = .ok i) (hop : opcodeField w = 0) : w = 0 := by
  rcases (decode_eq_ok_iff w i).1 h with ⟨h16, -⟩ | ⟨-, hbits⟩
  · rw [hop] at h16
    exact absurd h16 (by decide)
  · rw [← append_opcodeField w, hbits, hop]
    rfl

/-- Settles O37: of the words with OPCODE 0 only 0 is legal (`eq_zero_of_decode`). -/
theorem nopCompletes : Obligations.NopCompletes := by
  refine ⟨rfl, fun w hop hne => ?_, fun s => rfl⟩
  cases h : decode w with
  | ok i => exact absurd (eq_zero_of_decode h hop) hne
  | error e => exact ⟨e, rfl⟩

/-! ## The interrupt line (R223, R224) -/

theorem irq_eq_read_bits (s : State) : irq s = ((statusWord s).getLsbD 1 && (ctrlWord s).getLsbD 0) := by
  obtain ⟨-, -, -, hdone, -⟩ := statusWord_fields (ResultCode.bits s.err) s.ovr s.done (State.busy s)
  rw [statusWord, hdone, ctrlWord, (ctrlWord_fields s.ie).1, irq]

theorem engineStep_flags {w : Word} (hw : s.latched = some w) (h : engineStep s = .next t) :
    t.latched = none ∧ t.done = true ∧ irq t = s.ie := by
  rcases engineStep_eq s with ⟨hidle, -⟩ | ⟨_, i, -, -, e⟩ | ⟨_, _, -, -, e⟩
  · simp [hw] at hidle
  · exact (exec_completed (e ▸ h)).flags
  · rw [e] at h
    cases h
    exact ⟨rfl, rfl, rfl⟩

/-- The engine's turn raises DONE only as a completion. -/
theorem engineStep_done (h : engineStep s = .next t) (hd : t.done = true) :
    s.done = true ∨ (s.latched ≠ none ∧ t.latched = none) := by
  cases hw : s.latched with
  | none =>
    rw [engineStep, hw] at h
    cases h
    exact .inl hd
  | some w =>
    obtain ⟨hidle, -, -⟩ := engineStep_flags hw h
    exact .inr ⟨nofun, hidle⟩

/-- No write raises DONE: STATUS clears it, CMD too (R202, R206). -/
theorem done_of_writeReg {v : Word} (h : (writeReg r v s).done = true) : s.done = true := by
  rcases writeReg_eq r v s with ⟨-, e⟩ | ⟨-, e⟩ | ⟨-, -, -, e⟩ | ⟨-, -, e⟩ | ⟨-, -, -, -, e⟩ <;> rw [e] at h
  · rw [writeStatus_eq] at h
    exact Bool.and_elim_left h
  · exact h
  · exact h
  · cases h
  · cases r <;> exact h

theorem HostEvent.done_of_done (h : HostEvent s t) (hd : t.done = true) : s.done = true := by
  cases h with
  | quiet h =>
    rw [h] at hd
    exact hd
  | write off v strb h =>
    rw [h] at hd
    rcases hostWrite_eq off v strb s with ⟨-, e⟩ | ⟨r, -, -, -, e⟩ <;> rw [e] at hd
    · exact hd
    · exact done_of_writeReg hd

theorem step_done (h : step s = .next t) (hd : t.done = true) : s.done = true ∨
    ((s.turns = [] ∨ s.turns.head? = some .engine) ∧ s.latched ≠ none ∧ t.latched = none) := by
  rcases step_eq s with ⟨hnil, -, e⟩ | ⟨-, -, e⟩ | ⟨turn, rest, hturns, e⟩ <;> rw [e] at h
  · exact (engineStep_done h hd).imp_right fun hended => ⟨.inl hnil, hended⟩
  · exact .inl ((HostEvent.programStep h).done_of_done hd)
  · cases turn with
    | engine => exact (engineStep_done h hd).imp_right fun hended => ⟨.inr (by simp [hturns]), hended⟩
    | bus tr => exact .inl ((HostEvent.transfer h).done_of_done hd)
    | program => exact .inl ((HostEvent.programStep h).done_of_done hd)
    | reset => cases h; cases hd

/-- Settles O32: a completion's flags (`Completed.flags`, `engineStep_flags`), the turn that can raise DONE
(`step_done`), and the whole state after each write and read. -/
theorem interruptLine : Obligations.InterruptLine := by
  refine ⟨irq_eq_read_bits, fun i s t h => ?_, fun s t w hw h => ?_, fun s t h hd => step_done h hd,
    fun s v hidle => ?_, fun s v => ?_, fun s v => ?_, fun s t off v h => ?_⟩
  · obtain ⟨-, -, hirq⟩ := (exec_completed h).flags
    exact hirq
  · obtain ⟨-, hdone, hirq⟩ := engineStep_flags hw h
    exact ⟨hdone, hirq⟩
  · rw [hostWrite_cmd v hidle]
    rfl
  · rw [hostWrite_ctrl]
    exact ⟨rfl, rfl⟩
  · rw [hostWrite_status_eq, irq, irq]
    exact Bool.and_right_comm s.done _ s.ie
  · rw [hostRead_state h]
    rfl

end Sys2Proof.Machine
end

section
/-! PROOFS. Reset and the end of a command's flight (70_reset_and_hazards.md: R240 to R242, R252). -/

namespace Sys2Proof.Machine

variable {s t : State}

/-! ## Reset (R240 to R242) -/

/-- Settles O7: every clause holds of the table's values by computation. -/
theorem resetMeetsInvariant : Obligations.ResetMeetsInvariant where
  bufBytes := by decide
  memWf := rfl
  memInBuffers := rfl
  err := nofun
  schedule := rfl
  lastReads := rfl

theorem Quad.get_zeros (i : Fin 4) : Quad.get (⟨0, 0, 0, 0⟩ : Quad Word) i = 0 := by
  match i with
  | 0 | 1 | 2 | 3 => rfl

theorem getElem_replicate_zero {n : Nat} (i : Fin n) : (Vector.replicate n (0 : Word))[i] = 0 :=
  Vector.getElem_replicate i.isLt

theorem ctrlWord_engineReset (s : State) : ctrlWord (engineReset s) = 0 := by
  rw [ctrlWord, engineReset_ie]
  rfl

theorem statusWord_engineReset (s : State) : statusWord (engineReset s) = 0 := by
  rw [statusWord, engineReset_err, engineReset_ovr, engineReset_done, busy_engineReset]
  rfl

/-- Settles O8: the state after the reset turn is `engineReset s`, whose fields are the table's values. -/
theorem resetValues : Obligations.ResetValues := by
  have hquad (i : Fin 4) : Except.ok (ε := Fault) (Quad.get (⟨0, 0, 0, 0⟩ : Quad Word) i) = .ok 0 :=
    congrArg Except.ok (Quad.get_zeros i)
  have hfile {n : Nat} (i : Fin n) : Except.ok (ε := Fault) (Vector.replicate n (0 : Word))[i] = .ok 0 :=
    congrArg Except.ok (getElem_replicate_zero i)
  exact ⟨fun s => ⟨engineReset s, rfl, rfl, rfl, rfl, congrArg Except.ok (ctrlWord_engineReset s),
    congrArg Except.ok (statusWord_engineReset s), rfl, rfl, rfl, rfl, rfl, rfl,
    congrArg Except.ok (rkInfoWord_eq (engineReset s)), hfile, hquad, hquad, hquad, hquad, hfile,
    fun _ => rfl, rfl, rfl, rfl⟩, rfl, rfl⟩

/-! ## Every turn answers, and brings a command in flight nearer to its completion (R252) -/

theorem memReadWord_error {m : List Host.Cell} {a : Nat} {f : Fault} (h : memReadWord a m = .error f) :
    ∃ b, f = .unwrittenByte b := by
  unfold memReadWord at h
  split at h <;> cases h
  next e =>
    obtain ⟨k, -, -, rfl⟩ := memRead_error m 4 a _ e
    exact ⟨_, rfl⟩

theorem regWord_error {r : RegName} {f : Fault} (h : regWord r s = .error f) : ∃ b, f = .unwrittenByte b := by
  cases r with
  | inWord a | outWord a => exact memReadWord_error h
  | _ => cases h

theorem hostRead_error_unwritten {off : Offset} {f : Fault} (h : hostRead off s = .error f) :
    ∃ b, f = .unwrittenByte b := by
  rcases hostRead_eq off s with ⟨-, e⟩ | ⟨r, -, -, ⟨-, -, e⟩ | ⟨-, ⟨v, -, e⟩ | ⟨g, hg, e⟩⟩⟩ <;> rw [e] at h <;> cases h
  exact regWord_error hg

/-- r is a next state or the fault at an unwritten byte: no other stop. -/
abbrev Moves (r : Result) : Prop := Answers (fun _ => True) (fun _ => True) r

theorem transfer_moves (tr : Transfer) (s : State) : Moves (transfer tr s) := by
  cases tr with
  | write off v strb => exact .next trivial
  | read off =>
    simp only [transfer]
    split
    · next h =>
      obtain ⟨b, rfl⟩ := hostRead_error_unwritten h
      exact .fault trivial
    · exact .next trivial

theorem programRead_moves (r : RegName) (s : State) (rest : Word → State → State) : Moves (programRead r s rest) := by
  unfold programRead
  split
  · next h =>
    obtain ⟨b, rfl⟩ := hostRead_error_unwritten h
    exact .fault trivial
  · exact .next trivial

theorem runLine_moves (l : HostLine) (s : State) : Moves (runLine l s) := by
  cases l with
  | wr | cmd | bnz | jmp | halt => exact .next trivial
  | rd r => exact programRead_moves r s _
  | poll r mask value =>
    simp only [runLine]
    exact programRead_moves r s _
  | copy dst src =>
    simp only [runLine]
    split
    · exact programRead_moves src s _
    · exact .next trivial

theorem programStep_moves (s : State) : Moves (programStep s) := by
  unfold programStep
  split
  · exact .next trivial
  · exact runLine_moves _ s

theorem engineStep_moves (s : State) : Moves (engineStep s) := by
  rcases engineStep_eq s with ⟨-, e⟩ | ⟨_, i, -, -, e⟩ | ⟨_, _, -, -, e⟩ <;> rw [e]
  · exact .next trivial
  · exact (exec_ends i s).imp (fun _ _ => trivial) (fun _ _ => trivial)
  · exact .next trivial

theorem step_moves (s : State) : Moves (step s) := by
  rcases step_eq s with ⟨-, -, e⟩ | ⟨-, -, e⟩ | ⟨turn, _, -, e⟩ <;> rw [e]
  · exact engineStep_moves s
  · exact programStep_moves s
  · cases turn with
    | engine => exact engineStep_moves _
    | bus tr => exact transfer_moves tr _
    | program => exact programStep_moves _
    | reset => exact .next trivial

theorem turns_writeReg (r : RegName) (v : Word) (s : State) : (writeReg r v s).turns = s.turns := by
  rcases writeReg_eq r v s with ⟨-, e⟩ | ⟨-, e⟩ | ⟨-, -, -, e⟩ | ⟨-, -, e⟩ | ⟨-, -, -, -, e⟩ <;> rw [e]
  · rfl
  · rfl
  · rfl
  · rfl
  · cases r <;> rfl

theorem HostEvent.turns_eq (h : HostEvent s t) : t.turns = s.turns := by
  cases h with
  | quiet h => rw [h]
  | write off v strb h =>
    rw [h]
    rcases hostWrite_eq off v strb s with ⟨-, e⟩ | ⟨r, -, -, -, e⟩ <;> rw [e]
    · rfl
    · exact turns_writeReg r v s

theorem busy_of_engineStep (hb : State.busy s = true) (h : engineStep s = .next t) : State.busy t = false := by
  obtain ⟨w, hw⟩ := Option.isSome_iff_exists.1 hb
  obtain ⟨hidle, -, -⟩ := engineStep_flags hw h
  rw [State.busy, hidle]
  rfl

/-- A step of a busy engine ends the flight, or takes one turn off the list: no step adds one. -/
theorem step_flight (hb : State.busy s = true) (h : step s = .next t) :
    State.busy t = false ∨ (State.busy t = true ∧ t.turns.length + 1 = s.turns.length) := by
  have hhost {turn : Turn} {rest : List Turn} (hturns : s.turns = turn :: rest) (hevent : HostEvent (dropTurn s) t) :
      State.busy t = true ∧ t.turns.length + 1 = s.turns.length := by
    have hheld : commandHeld t = commandHeld (dropTurn s) := hevent.commandHeld hb
    simp only [commandHeld, Prod.mk.injEq] at hheld
    obtain ⟨-, hlatched, -⟩ := hheld
    refine ⟨?_, by rw [hevent.turns_eq, dropTurn_turns, hturns]; rfl⟩
    rw [State.busy, hlatched]
    exact hb
  rcases step_eq s with ⟨-, -, e⟩ | ⟨-, hidle, -⟩ | ⟨turn, rest, hturns, e⟩
  · exact .inl (busy_of_engineStep hb (e ▸ h))
  · simp [hb] at hidle
  · rw [e] at h
    cases turn with
    | engine => exact .inl (busy_of_engineStep (s := dropTurn s) hb h)
    | bus tr => exact .inr (hhost hturns (.transfer h))
    | program => exact .inr (hhost hturns (.programStep h))
    | reset => cases h; exact .inl rfl

theorem run_succ_of_next {M : Host.Core} {s t : M.State} (k : Nat) (h : M.step s = .next t) :
    M.run (k + 1) s = M.run k t := by
  rw [Host.Core.run, h]

theorem run_one_of_fault {M : Host.Core} {s : M.State} {f : M.Fault} (h : M.step s = .fault f) :
    M.run 1 s = .fault f := by
  rw [Host.Core.run, h]

/-- By induction on a bound of the turns offered: each step that does not end the flight uses one up. -/
theorem flight_ends (n : Nat) : ∀ s : State, State.busy s = true → s.turns.length < n →
    ∃ k, k ≤ n ∧ Answers (fun _ => True) (fun t => State.busy t = false) (Host.Core.run core k s) := by
  induction n with
  | zero => exact fun s _ h => absurd h (Nat.not_lt_zero _)
  | succ n ih =>
    intro s hb hlen
    rcases (step_moves s).next_or_fault with ⟨t, e, -⟩ | ⟨a, e, -⟩
    · have hrun (k : Nat) := run_succ_of_next (M := core) k e
      rcases step_flight hb e with hidle | ⟨hbusy, hturns⟩
      · exact ⟨1, by omega, hrun 0 ▸ .next hidle⟩
      · obtain ⟨k, hk, hflight⟩ := ih t hbusy (by omega)
        exact ⟨k + 1, by omega, hrun k ▸ hflight⟩
    · exact ⟨1, by omega, run_one_of_fault (M := core) e ▸ .fault trivial⟩

/-- Settles O9: with n turns offered the flight ends within n + 1 steps (`flight_ends`). -/
theorem commandLeavesFlight : Obligations.CommandLeavesFlight := by
  intro s hb
  obtain ⟨k, hk, hflight⟩ := flight_ends (s.turns.length + 1) s hb (Nat.lt_succ_self _)
  exact ⟨k, hk, hflight.next_or_fault.imp_right fun ⟨a, e, _⟩ => ⟨a, e⟩⟩

end Sys2Proof.Machine
end

section
/-! PROOFS. The rounds of the cipher driven by hand on STATE (60_exceptions.md: R232; R170). -/

namespace Sys2Proof.Machine

variable {s : State} {ks : KeySize} {w : Vector Word 60}

/-- The transform of the state matrix that each of the four commands of a round applies, with the round keys w (R142,
R146, R150, R154); no other command is asked. -/
def stateTransform (w : Vector Word 60) : Instr → Matrix → Matrix
  | .subBytes => subBytes
  | .shiftRows => shiftRows
  | .mixColumns => mixColumns
  | .addRoundKey round => fun m => addRoundKey m w round
  | _ => id

/-- The commands by which a host drives the cipher, with the rounds that NR allows. -/
def RoundCommand (ks : KeySize) (i : Instr) : Prop :=
  i = .subBytes ∨ i = .shiftRows ∨ i = .mixColumns ∨ ∃ round, round ≤ KeySize.nr ks ∧ i = .addRoundKey round

/-- `HoldsMatrix ks w m s`: the schedule w of size ks stands, and STATE is the matrix m. -/
structure HoldsMatrix (ks : KeySize) (w : Vector Word 60) (m : Matrix) (s : State) : Prop where
  rkInfo : s.rkInfo = some ks
  rk : s.rk = w
  matrix : toState (blockOfReg s.stateReg) = m

theorem HoldsMatrix.mapState {m : Matrix} (h : HoldsMatrix ks w m s) (f : Matrix → Matrix) :
    HoldsMatrix ks w (f m) (finish .ok (mapState f s)) where
  rkInfo := h.rkInfo
  rk := h.rk
  matrix := by
    rw [finish_stateReg, Machine.mapState, setStateBlock_stateReg, blockOfReg_regOfBlock, toState_fromState, h.matrix]

theorem HoldsMatrix.exec {m : Matrix} {i : Instr} (h : HoldsMatrix ks w m s) (hi : RoundCommand ks i) :
    ∃ t, exec i s = .next t ∧ t.err = .ok ∧ HoldsMatrix ks w (stateTransform w i m) t := by
  rcases hi with rfl | rfl | rfl | ⟨round, hround, rfl⟩
  · exact ⟨_, rfl, rfl, h.mapState subBytes⟩
  · exact ⟨_, rfl, rfl, h.mapState shiftRows⟩
  · exact ⟨_, rfl, rfl, h.mapState mixColumns⟩
  · refine ⟨_, exec_addRoundKey_of_le h.rkInfo hround, rfl, ?_⟩
    rw [h.rk]
    exact h.mapState fun m => addRoundKey m w round

/-- The commands one after another apply their transforms in turn, and the last one ends with ERR = OK. -/
theorem HoldsMatrix.execAll (is : List Instr) : ∀ {m : Matrix} {s : State}, HoldsMatrix ks w m s →
    (∀ i ∈ is, RoundCommand ks i) → ∃ t, execAll is s = .next t ∧ (is ≠ [] → t.err = .ok) ∧
      HoldsMatrix ks w (is.foldl (fun m i => stateTransform w i m) m) t := by
  induction is with
  | nil => exact fun h _ => ⟨_, rfl, nofun, h⟩
  | cons i is ih =>
    intro m s h his
    obtain ⟨t, e, herr, ht⟩ := h.exec (his i List.mem_cons_self)
    obtain ⟨u, e', herr', hu⟩ := ih ht fun j hj => his j (List.mem_cons_of_mem i hj)
    refine ⟨u, by simp only [Machine.execAll, e, e'], fun _ => ?_, hu⟩
    cases is with
    | nil => cases e'; exact herr
    | cons => exact herr' nofun

theorem roundCommand_of_mem {i : Instr} (h : i ∈ roundCommands ks) : RoundCommand ks i := by
  simp only [roundCommands, List.mem_append, List.mem_flatMap, List.mem_range'_1, List.mem_cons, List.not_mem_nil,
    or_false] at h
  rcases h with (rfl | ⟨round, ⟨-, hround⟩, rfl | rfl | rfl | rfl⟩) | rfl | rfl | rfl
  · exact .inr (.inr (.inr ⟨0, Nat.zero_le _, rfl⟩))
  · exact .inl rfl
  · exact .inr (.inl rfl)
  · exact .inr (.inr (.inl rfl))
  · exact .inr (.inr (.inr ⟨round, by omega, rfl⟩))
  · exact .inl rfl
  · exact .inr (.inl rfl)
  · exact .inr (.inr (.inr ⟨_, Nat.le_refl _, rfl⟩))

/-- The four commands of each round of R170 that has a MixColumns. -/
theorem foldl_rounds (w : Vector Word 60) (rounds : List Nat) : ∀ m : Matrix,
    (rounds.flatMap fun r => [Instr.subBytes, .shiftRows, .mixColumns, .addRoundKey r]).foldl
      (fun m i => stateTransform w i m) m = cipherRounds w rounds m := by
  induction rounds with
  | nil => exact fun _ => rfl
  | cons round rounds ih => exact fun m => ih _

theorem foldl_roundCommands (w : Vector Word 60) (b : Block) :
    (roundCommands ks).foldl (fun m i => stateTransform w i m) (toState b) = toState (cipher b w (KeySize.nr ks)) := by
  rw [roundCommands, List.foldl_append, List.foldl_append, foldl_rounds, cipher, toState_fromState]
  rfl

/-- Settles O50: the commands complete with OK up to each of them, and all of them leave the matrix of Cipher's result
(`foldl_roundCommands`). -/
theorem roundsByHandEqualEncrypt : Obligations.RoundsByHandEqualEncrypt := by
  intro s ks hks hblock
  have hstart : HoldsMatrix ks s.rk (toState (blockOfReg s.blkIn)) s := ⟨hks, rfl, by rw [hblock]⟩
  refine ⟨fun n hpos hn => ?_, ?_⟩
  · obtain ⟨t, e, herr, -⟩ := hstart.execAll ((roundCommands ks).take n)
      fun i hi => roundCommand_of_mem (List.mem_of_mem_take hi)
    refine ⟨t, e, herr fun hnil => ?_⟩
    rw [← List.length_eq_zero_iff, List.length_take] at hnil
    omega
  · obtain ⟨t, e, -, ht⟩ := hstart.execAll (roundCommands ks) fun i => roundCommand_of_mem
    refine ⟨t, _, e, exec_encryptBlock_of_some hks, ?_⟩
    have hmatrix := congrArg fromState (ht.matrix.trans (foldl_roundCommands s.rk (blockOfReg s.blkIn)))
    rw [fromState_toState, fromState_toState] at hmatrix
    rw [finish_blkOut, setBlkOut_blkOut, ← hmatrix, regOfBlock_blockOfReg]

end Sys2Proof.Machine
end
